-- ==== Sys2Proof/Word.lean ====
section
/-! DEFINITION. The two word types of BFC/OTS (spec/00_scope.md R8): `u8` and `u32`. `nat` is Lean's `Nat`. -/

namespace Sys2Proof

/-- `u8`: one byte of the wire, of a record or of a memory space (R8). -/
abbrev Byte := BitVec 8

/-- `u32`: a 32-bit unsigned value (R8): `arg0`, `len`, a CRC, an OTP tag argument. -/
abbrev U32 := BitVec 32

end Sys2Proof
end

