-- ==== Sys2Proof/Config.lean ====
section
/-! DEFINITION. What an implementation fixes: the constants of spec/00_scope.md R6 and the parameters of R7.
The block leaves no value free, so there is no opaque constant here (spec/93_implementation_defined.md: every open
point is a parameter, a launch input, an external agent's answer, or fixed by a decision). -/

namespace Sys2Proof

namespace Config

/-- `SOF`, the byte `>` (R6). -/
def sof : Byte := 0x3E#8
/-- `SEP`, the byte `,` (R6). -/
def sep : Byte := 0x2C#8
/-- `DELIM_HEX`, the byte `#` (R6). -/
def delimHex : Byte := 0x23#8
/-- `DELIM_BIN`, the byte `%` (R6). -/
def delimBin : Byte := 0x25#8
/-- `CMD_ACK`, the byte `A` (R6). -/
def cmdAck : Byte := 0x41#8
/-- `CMD_NACK`, the byte `N` (R6). -/
def cmdNack : Byte := 0x4E#8
/-- `HDR_LEN`: header bytes after SOF (R6). -/
def hdrLen : Nat := 20
/-- `CRC_TRAILER_LEN` (R6). -/
def trailerLen : Nat := 8
/-- The reflected form of `CRC_POLY` (R6, R101). -/
def crcPolyReflected : U32 := 0x82F63B78#32
/-- `OTP_SIZE` (R6). -/
def otpSize : Nat := 8192
/-- `TAG_START` (R6). -/
def tagStart : Nat := 4096
/-- `TAG_END`, exclusive (R6). -/
def tagEnd : Nat := 8192
/-- `REC_SIZE` (R6). -/
def recSize : Nat := 8

end Config

/-- The parameters of R7 that are fixed at instantiation. They are data, so that a statement holds for every
setting; no operation changes them (R33). `OTP_IMAGE` and `OTP_BAD`, the launch inputs, are fields of State. -/
structure Params where
  /-- `PAYLOAD_MAX`: capacity in bytes of the engine's payload buffer (D12). -/
  payloadMax : Nat
  /-- `DEST_SIZE`: capacity in bytes of the destination buffer (D14). -/
  destSize : Nat
  /-- `CMD_DATA` (D14). -/
  cmdData : Option Byte
  /-- `CMD_XFER_START` (D15). -/
  cmdXferStart : Option Byte
  /-- `CMD_CONT` (D17). -/
  cmdCont : Option Byte
  /-- `NACK_ON_GARBLED` (D9). -/
  nackOnGarbled : Bool
  /-- `TAGID_B7_BIT`, 0..3 (D22). -/
  tagIdB7Bit : Fin 4
deriving DecidableEq, Repr

/-- Two command-code parameters do not name the same byte; `none` names no byte (R7). -/
def Params.apart (a b : Option Byte) : Bool := a.isNone || b.isNone || a != b

/-- The command codes that are not `none` are pairwise distinct (R7, D14; a set that is not is refused,
spec/93_implementation_defined.md O7). -/
def Params.wf (p : Params) : Bool :=
  Params.apart p.cmdData p.cmdXferStart && Params.apart p.cmdData p.cmdCont && Params.apart p.cmdXferStart p.cmdCont

/-- The setting State.reset holds: the settings of the vector suite of spec/95_test_vectors.md.
DESIGN CHOICE (log entry 1; unsafe for a claim that starts at State.reset): R7 gives `PAYLOAD_MAX`, `DEST_SIZE` and the
command codes no default. -/
def Params.default : Params where
  payloadMax := 256
  destSize := 1024
  cmdData := none
  cmdXferStart := none
  cmdCont := none
  nackOnGarbled := true
  tagIdB7Bit := 0

end Sys2Proof
end

