-- ==== Sys2Proof/Syntax.lean ====
section
/-! DEFINITION. The instructions of BFC/OTS: one constructor per row of spec/opcode_table.json, and the transactions
that carry them. The first thirteen rows are the operations of spec/30_encoding.md R84. The others are the forms of a
wire frame (R70, R71, R79), of its delimiter byte and of an OTP record's byte 7 (R80, R81). -/

namespace Sys2Proof

/-- The payload encoding: `HEX` (`#`) or `BIN` (`%`) (spec/00_scope.md R12). -/
inductive Mode where
  | hex
  | bin
deriving DecidableEq, Repr

/-- The kind of a response (spec/42_frame_tx.md R170). -/
inductive Kind where
  | ack
  | nack
deriving DecidableEq, Repr

/-- A frame as it stands on the wire, less the bytes R71 fixes: SOF and the two separators. `arg0`, `len` and `crc` are
the 8 characters of each field as received, whether hex digits or not (R79), and `payload` is the payload's wire bytes. -/
structure Frame where
  cmd : Byte
  arg0 : Vector Byte 8
  len : Vector Byte 8
  mode : Mode
  payload : List Byte
  crc : Vector Byte 8
deriving DecidableEq, Repr

/-- An OTP record less its size field (R80): `REC[0..5]`, `REC[6]`, and bits 4 and 3..0 of `REC[7]`. -/
structure RecordBody where
  value : Vector Byte 6
  tagLow : Byte
  cont : BitVec 1
  low : BitVec 4
deriving DecidableEq, Repr

/-- One constructor per row of spec/opcode_table.json, in the table's order. -/
inductive Instr where
  /-- `CRC32C(seed, data)`, 0x01 (R100). -/
  | crc32c (seed : U32) (data : List Byte)
  /-- `HEX2NIBBLE(ch)`, 0x02 (R103). -/
  | hex2nibble (ch : Byte)
  /-- `ATOHEX(chars)`, 0x03 (R104). -/
  | atohex (chars : List Byte)
  /-- `HEX2STR(v)`, 0x04 (R106). -/
  | hex2str (v : U32)
  /-- `PAIR_ENCODE(b)`, 0x05 (R107). -/
  | pairEncode (b : Byte)
  /-- `PAIR_DECODE(hi, lo)`, 0x06 (R108). -/
  | pairDecode (hi lo : Byte)
  /-- `FRAME_ENCODE(cmd, arg0, payload, mode)`, 0x07 (R173). -/
  | frameEncode (cmd : Byte) (arg0 : U32) (payload : List Byte) (mode : Mode)
  /-- `RX_BYTE(b)`, 0x10 (R130). -/
  | rxByte (b : Byte)
  /-- `DISPATCH_RESPONSE(kind, arg0, payload)`, 0x11 (R194). -/
  | dispatchResponse (kind : Kind) (arg0 : U32) (payload : List Byte)
  /-- `RESET`, 0x12 (R290). -/
  | reset
  /-- `OTP_DECODE(raw)`, 0x20 (R220). -/
  | otpDecode (raw : Vector Byte 8)
  /-- `OTP_GET(tag, base, buf_size)`, 0x21 (R222). -/
  | otpGet (tag : U32) (base bufSize : Nat)
  /-- `OTP_GET_VALUE(raw, offset, base, buf_size)`, 0x22 (R226). -/
  | otpGetValue (raw : Vector Byte 8) (offset base bufSize : Nat)
  /-- An ACK frame, transmit direction (R170). -/
  | respAck (arg0 : U32) (payload : List Byte) (mode : Mode)
  /-- A NACK frame, transmit direction (R170). -/
  | respNack (arg0 : U32) (payload : List Byte) (mode : Mode)
  /-- A complete request frame with `cmd = CMD_DATA` (R191). -/
  | reqData (f : Frame)
  /-- A complete request frame with `cmd = CMD_XFER_START` (R195). -/
  | reqXferStart (f : Frame)
  /-- A complete request frame with `cmd = CMD_CONT` (R196). -/
  | reqCont (f : Frame)
  /-- Any other complete request frame (R192). -/
  | reqDispatch (f : Frame)
  /-- A header that fails the structural check (R134). -/
  | frameGarbled (hdr : Vector Byte 20)
  /-- Frame byte 20 is `#` (R135). -/
  | delimHex
  /-- Frame byte 20 is `%` (R135). -/
  | delimBin
  /-- An OTP record of size 0, invalid (R81). -/
  | otpRecInvalidSize0 (r : RecordBody)
  /-- An OTP record of size 1 (R220). -/
  | otpRecSize1 (r : RecordBody)
  /-- An OTP record of size 2 (R220). -/
  | otpRecSize2 (r : RecordBody)
  /-- An OTP record of size 3 (R220). -/
  | otpRecSize3 (r : RecordBody)
  /-- An OTP record of size 4 (R220). -/
  | otpRecSize4 (r : RecordBody)
  /-- An OTP record of size 5 (R220). -/
  | otpRecSize5 (r : RecordBody)
  /-- An OTP record of size 6 (R220). -/
  | otpRecSize6 (r : RecordBody)
  /-- An OTP record of size 7, invalid (R81). -/
  | otpRecInvalidSize7 (r : RecordBody)
deriving DecidableEq, Repr

/-- The "format" column of spec/opcode_table.json: which bits of what a row reads. The rows of two formats may have
equal bits (REC7 0x20 and the operation code 0x20; a frame `>A,` sent and one received), so a transaction says its format. -/
inductive Format where
  /-- OP: an operation code and its operands. -/
  | op
  /-- FRAME24, transmit direction. -/
  | frameTx
  /-- FRAME24, receive direction. -/
  | frameRx
  /-- HDR: the 20 header bytes after SOF. -/
  | header
  /-- FRAME byte 20. -/
  | delim
  /-- REC7: the 8 bytes of an OTP record, read by byte 7. -/
  | record
deriving DecidableEq, Repr

/-- One transaction an outside agent hands the block (spec/00_scope.md R5, R13: the model is transaction-level):
a format and its bytes. DESIGN CHOICE (log entries 5 and 6). -/
structure Transaction where
  format : Format
  bytes : List Byte
deriving DecidableEq, Repr

/-- Why a transaction is no instruction of the table. -/
inductive DecodeError where
  /-- OP: no bytes at all, or an operation code that R84 does not list. -/
  | unknownOperation
  /-- OP: the operand bytes are too few, or one names no value of its operand. -/
  | badOperands
  /-- OP: a payload of 2^32 bytes or more, outside the operation's domain (R173, R193; O1, O2). -/
  | payloadTooLong
  /-- OP: bytes are left over after the operands. -/
  | trailingBytes
  /-- FRAME24: the first byte is not SOF (R71). -/
  | noSof
  /-- FRAME24, receive direction: the header fails the structural check (R133). -/
  | garbledHeader
  /-- FRAME24: the frame has not the length its header gives (R75, R85). -/
  | badLength
  /-- FRAME24, receive direction: the trailer does not match (R139). -/
  | crcMismatch
  /-- FRAME24, transmit direction: not a frame that FRAME_ENCODE makes for an ACK or a NACK (R170, R174). -/
  | notAResponse
  /-- HDR: not 20 bytes, or a header that passes the structural check and so is not FRAME_GARBLED (R133). -/
  | notGarbled
  /-- FRAME byte 20: not one byte, or neither `#` nor `%` (R71). -/
  | notADelimiter
  /-- REC7: not 8 bytes (R80). -/
  | notARecord
deriving DecidableEq, Repr

end Sys2Proof
end

