-- ==== Sys2Proof/Machine/Codec.lean ====
section
/-! DEFINITION. The framing and CRC codec (spec/40_crc_hex.md, spec/42_frame_tx.md R171 to R173) and the byte-order
helpers: pure functions that the operations, the engine and the decoder share. -/

namespace Sys2Proof.Machine

/-! ### CRC32C -/

/-- One turn of R100's inner loop. -/
def crcBit (c : U32) : U32 :=
  if c.getLsbD 0 then (c >>> 1) ^^^ Config.crcPolyReflected else c >>> 1

/-- One byte of R100's outer loop. -/
def crcByte (c : U32) (b : Byte) : U32 := Nat.repeat crcBit 8 (c ^^^ b.setWidth 32)

/-- `crc32c(seed, data)` (R100). -/
def crc32c (seed : U32) (data : List Byte) : U32 := ~~~ (data.foldl crcByte (~~~ seed))

/-! ### Hex digits and fields -/

/-- `hex2nibble(ch)`: a character that is no hex digit gives 0xFFFFFFFF (R103, D7). -/
def hex2nibble (ch : Byte) : U32 :=
  if 0x30#8 ≤ ch ∧ ch ≤ 0x39#8 then (ch - 0x30#8).setWidth 32
  else if 0x61#8 ≤ ch ∧ ch ≤ 0x66#8 then (ch - 0x61#8 + 10#8).setWidth 32
  else if 0x41#8 ≤ ch ∧ ch ≤ 0x46#8 then (ch - 0x41#8 + 10#8).setWidth 32
  else 0xFFFFFFFF#32

/-- One turn of R104's loop: shift modulo 2^32, then OR. -/
def atohexStep (v : U32) (ch : Byte) : U32 := (v <<< 4) ||| hex2nibble ch

/-- `atohex(chars)` (R104). -/
def atohex (chars : List Byte) : U32 := chars.foldl atohexStep 0#32

/-- `hexchar(n)`: the byte `"0123456789ABCDEF"[n]`, uppercase (R105, D6). -/
def hexchar (n : BitVec 4) : Byte :=
  if n < 10#4 then 0x30#8 + n.setWidth 8 else 0x41#8 + (n.setWidth 8 - 10#8)

/-- `hex2str(v)`: character k is the digit of bits 31-4k .. 28-4k (R106). -/
def hex2str (v : U32) : List Byte := (List.range 8).map fun k => hexchar (v.extractLsb' (28 - 4 * k) 4)

/-! ### Payload pairs -/

/-- `pair_encode(b)`: high nibble first (R107). -/
def pairEncode (b : Byte) : List Byte := [hexchar (b.extractLsb' 4 4), hexchar (b.extractLsb' 0 4)]

/-- `pair_decode(hi, lo) = atohex([hi, lo])[7:0]` (R108). -/
def pairDecode (hi lo : Byte) : Byte := (atohex [hi, lo]).setWidth 8

/-! ### Frames -/

/-- The payload delimiter of a mode (R6, R71). -/
def delimOf (m : Mode) : Byte :=
  match m with
  | .hex => Config.delimHex
  | .bin => Config.delimBin

/-- The mode a payload delimiter selects, if it is one of the two (R71, R79). -/
def modeOfDelim (b : Byte) : Option Mode :=
  if b = Config.delimHex then some .hex else if b = Config.delimBin then some .bin else none

/-- The command byte of a response kind (R170). -/
def kindCmd (k : Kind) : Byte :=
  match k with
  | .ack => Config.cmdAck
  | .nack => Config.cmdNack

/-- `W(p, m)`: the payload's wire bytes (R172). -/
def wirePayload (p : List Byte) (m : Mode) : List Byte :=
  match m with
  | .hex => p.flatMap pairEncode
  | .bin => p

/-- The number of payload wire bytes of a frame whose len field is `n` (R71, R85). -/
def wireLen (n : Nat) (m : Mode) : Nat :=
  match m with
  | .hex => 2 * n
  | .bin => n

/-- Wire characters to payload bytes, two by two (R72, R108). -/
def unpair (w : List Byte) : List Byte :=
  match w with
  | hi :: lo :: rest => pairDecode hi lo :: unpair rest
  | _ => []

/-- The payload bytes that the wire bytes `w` carry in a mode (R72). -/
def decodePayload (w : List Byte) (m : Mode) : List Byte :=
  match m with
  | .hex => unpair w
  | .bin => w

/-- The 20 header bytes of a frame that FRAME_ENCODE makes (R171); the length field counts payload bytes in both modes. -/
def encodeHeader (c : Byte) (a : U32) (p : List Byte) (m : Mode) : List Byte :=
  [c, Config.sep] ++ hex2str a ++ [Config.sep] ++ hex2str (BitVec.ofNat 32 p.length) ++ [delimOf m]

/-- `frame_encode(c, a, p, m)` (R173; CRC scope R74). -/
def frameEncode (c : Byte) (a : U32) (p : List Byte) (m : Mode) : List Byte :=
  let body := encodeHeader c a p m ++ wirePayload p m
  Config.sof :: body ++ hex2str (crc32c 0#32 body)

/-- The 20 header bytes of a frame as it stands on the wire (R71). -/
def frameHeader (f : Frame) : List Byte :=
  [f.cmd, Config.sep] ++ f.arg0.toList ++ [Config.sep] ++ f.len.toList ++ [delimOf f.mode]

/-- A frame's bytes in wire order (R70, R71). -/
def frameBytes (f : Frame) : List Byte :=
  Config.sof :: frameHeader f ++ f.payload ++ f.crc.toList

/-- A frame's decoded payload (R72). -/
def framePayload (f : Frame) : List Byte := decodePayload f.payload f.mode

/-- `len`, as the number it is compared and added as (R87). -/
def frameLen (f : Frame) : Nat := (atohex f.len.toList).toNat

/-- The CRC a receiver computes over the frame: header and payload wire bytes (R74). -/
def frameCrc (f : Frame) : U32 := crc32c 0#32 (frameHeader f ++ f.payload)

/-! ### Records -/

/-- The 8 bytes of a record of a given size field (R80). -/
def recordBytes (size : BitVec 3) (r : RecordBody) : Vector Byte 8 :=
  #v[r.value[0], r.value[1], r.value[2], r.value[3], r.value[4], r.value[5], r.tagLow, (size ++ r.cont) ++ r.low]

/-! ### Byte order and numbers of the transaction encoding (DESIGN CHOICE, log entry 6) -/

/-- A u32 as four bytes, most significant first. -/
def be32 (v : U32) : List Byte :=
  [v.extractLsb' 24 8, v.extractLsb' 16 8, v.extractLsb' 8 8, v.extractLsb' 0 8]

/-- The u32 of four bytes, most significant first. -/
def ofBe32 (a b c d : Byte) : U32 := ((a ++ b) ++ c) ++ d

/-- A natural number in groups of 7 bits, least significant group first, bit 7 set on every byte but the last.
The fuel bounds the number of groups. -/
def natBytesAux (fuel n : Nat) : List Byte :=
  match fuel with
  | 0 => [BitVec.ofNat 8 n]
  | fuel + 1 => if n < 128 then [BitVec.ofNat 8 n] else BitVec.ofNat 8 (128 + n % 128) :: natBytesAux fuel (n / 128)

/-- The bytes of a natural number; `n` groups always suffice. -/
def natBytes (n : Nat) : List Byte := natBytesAux n n

/-- The natural number a byte list begins with, and the bytes after it. -/
def takeNat (bs : List Byte) : Option (Nat × List Byte) :=
  match bs with
  | [] => none
  | b :: rest =>
    if b.toNat < 128 then some (b.toNat, rest)
    else match takeNat rest with
      | none => none
      | some (n, rest') => some (b.toNat - 128 + 128 * n, rest')

/-- The first 8 bytes and the bytes after them. -/
def take8 (bs : List Byte) : Option (Vector Byte 8 × List Byte) :=
  match bs with
  | a :: b :: c :: d :: e :: f :: g :: h :: rest => some (#v[a, b, c, d, e, f, g, h], rest)
  | _ => none

/-- The u32 a byte list begins with, and the bytes after it. -/
def take32 (bs : List Byte) : Option (U32 × List Byte) :=
  match bs with
  | a :: b :: c :: d :: rest => some (ofBe32 a b c d, rest)
  | _ => none

end Sys2Proof.Machine
end

