-- ==== Sys2Proof/Machine/Operands.lean ====
section
/-! DEFINITION. Operand assembly (spec/30_encoding.md R87): the operands of a request from its header, and the fields
of an OTP record (R80). -/

namespace Sys2Proof.Machine

/-- The 8 characters of the hex field of a header that begins at index `i` (R22, R71). -/
def headerField (hdr : Vector Byte 20) (i : Nat) : List Byte := (hdr.toList.drop i).take 8

/-- `REQ_CMD = HDR[0]` (R87). -/
def headerCmd (hdr : Vector Byte 20) : Byte := hdr[0]

/-- `REQ_ARG0 = atohex(HDR[2..9])` (R87). -/
def headerArg0 (hdr : Vector Byte 20) : U32 := atohex (headerField hdr 2)

/-- `REQ_LEN = atohex(HDR[11..18])` (R87). -/
def headerLen (hdr : Vector Byte 20) : U32 := atohex (headerField hdr 11)

/-- `REQ_MODE`: HEX if `HDR[19] = '#'`, else BIN (R135). -/
def headerMode (hdr : Vector Byte 20) : Mode := if hdr[19] = Config.delimHex then .hex else .bin

/-- The fields of an OTP record, OTP_DECODE's result (R220). -/
structure OtpFields where
  size : Nat
  cont : Bool
  tagId : BitVec 9
  valid : Bool
deriving DecidableEq, Repr

/-- `size = REC[7][7:5]` (R80). -/
def recordSize (raw : Vector Byte 8) : Nat := (raw[7].extractLsb' 5 3).toNat

/-- `cont = REC[7][4]` (R80). -/
def recordCont (raw : Vector Byte 8) : Bool := raw[7].getLsbD 4

/-- `tag_id = zext_9(REC[6]) | (zext_9(REC[7][TAGID_B7_BIT]) << 8)` (R80). -/
def recordTag (bit : Fin 4) (raw : Vector Byte 8) : BitVec 9 :=
  raw[6].setWidth 9 ||| ((raw[7].extractLsb' bit.val 1).setWidth 9 <<< 8)

/-- A record is valid exactly when `1 <= size <= 6` (R81). -/
def recordValid (raw : Vector Byte 8) : Bool := decide (1 ≤ recordSize raw) && decide (recordSize raw ≤ 6)

/-- `otp_decode(raw)` (R220); `bit` is the parameter TAGID_B7_BIT (D22). -/
def otpDecode (bit : Fin 4) (raw : Vector Byte 8) : OtpFields where
  size := recordSize raw
  cont := recordCont raw
  tagId := recordTag bit raw
  valid := recordValid raw

/-- A record's value bytes, `REC[0 .. size-1]`; none for an invalid record (R80, R81). -/
def recordValue (raw : Vector Byte 8) : List Byte :=
  if recordValid raw then raw.toList.take (recordSize raw) else []

end Sys2Proof.Machine
end

