-- ==== Sys2Proof/Machine/Flags.lean ====
section
/-! DEFINITION. The block has no condition codes (spec/10_state.md R32). What takes their place are the checks whose
outcome a rule branches on, and the outcomes: the engine's errors with their reason strings (spec/60_exceptions.md R261,
spec/42_frame_tx.md R177) and the status of an OTS operation (spec/30_encoding.md R83). -/

namespace Sys2Proof.Machine

/-- The structural check (R133); no other header byte is tested (D5). -/
def headerOk (hdr : Vector Byte 20) : Bool :=
  decide (hdr[1] = Config.sep) && decide (hdr[10] = Config.sep)
    && (decide (hdr[19] = Config.delimHex) || decide (hdr[19] = Config.delimBin))

/-- The engine's error outcomes (R261). `E_OVERSIZE` and `E_CAPACITY` share a reason string (R264). -/
inductive EngineError where
  /-- `E_GARBLED`, raised by R133. -/
  | garbled
  /-- `E_CRC`, raised by R139. -/
  | crc
  /-- `E_OVERSIZE`, raised by R141. -/
  | oversize
  /-- `E_ORDER`, raised by R191. -/
  | order
  /-- `E_CAPACITY`, raised by R191. -/
  | capacity
deriving DecidableEq, Repr

/-- "garbled command" (R177). -/
def reasonGarbled : List Byte :=
  [0x67#8, 0x61#8, 0x72#8, 0x62#8, 0x6C#8, 0x65#8, 0x64#8, 0x20#8, 0x63#8, 0x6F#8, 0x6D#8, 0x6D#8, 0x61#8, 0x6E#8, 0x64#8]

/-- "CRC failure" (R140). -/
def reasonCrc : List Byte :=
  [0x43#8, 0x52#8, 0x43#8, 0x20#8, 0x66#8, 0x61#8, 0x69#8, 0x6C#8, 0x75#8, 0x72#8, 0x65#8]

/-- "too much data" (R177). -/
def reasonTooMuch : List Byte :=
  [0x74#8, 0x6F#8, 0x6F#8, 0x20#8, 0x6D#8, 0x75#8, 0x63#8, 0x68#8, 0x20#8, 0x64#8, 0x61#8, 0x74#8, 0x61#8]

/-- "data misordering" (R177). -/
def reasonMisordering : List Byte :=
  [0x64#8, 0x61#8, 0x74#8, 0x61#8, 0x20#8, 0x6D#8, 0x69#8, 0x73#8, 0x6F#8, 0x72#8, 0x64#8, 0x65#8, 0x72#8, 0x69#8, 0x6E#8, 0x67#8]

/-- The reason string of an engine error: its bytes, no terminator (R177, D19). -/
def errorReason (e : EngineError) : List Byte :=
  match e with
  | .garbled => reasonGarbled
  | .crc => reasonCrc
  | .oversize => reasonTooMuch
  | .order => reasonMisordering
  | .capacity => reasonTooMuch

/-- The status of an OTS operation, kept as the enumeration R83 allows. -/
inductive Status where
  /-- `n` value bytes were copied. -/
  | count (n : Nat)
  /-- The tag is absent. -/
  | enoent
  /-- A record read failed, or a continuation record (or a head handed in) is invalid. -/
  | eio
  /-- A chain runs off the end of the region, or the offset argument is bad. -/
  | ebadf
deriving DecidableEq, Repr

/-- The i32 of a status: the count, or -2, -5, -9 (R83; log entry 16). -/
def statusI32 (st : Status) : BitVec 32 :=
  match st with
  | .count n => BitVec.ofNat 32 n
  | .enoent => BitVec.ofInt 32 (-2)
  | .eio => BitVec.ofInt 32 (-5)
  | .ebadf => BitVec.ofInt 32 (-9)

end Sys2Proof.Machine
end

