-- ==== Sys2Proof/WellFormed.lean ====
section
/-! DEFINITION. Which instructions are well formed: each operand in the domain its rule states, and each frame row's
own conditions. Decoding yields only well-formed instructions. -/

namespace Sys2Proof

/-- A payload that a 32-bit len field can describe (spec/42_frame_tx.md R173; spec/93_implementation_defined.md O1, O2). -/
def payloadFits (p : List Byte) : Bool := decide (p.length < 2 ^ 32)

/-- A complete request frame: as many payload wire bytes as its len field and mode give (R71), and a trailer that
matches (R139). Its header passes R133 by construction. -/
def Frame.wf (f : Frame) : Bool :=
  decide (f.payload.length = Machine.wireLen (Machine.frameLen f) f.mode)
    && decide (Machine.atohex f.crc.toList = Machine.frameCrc f)

/-- Each operand in its rule's domain; each request frame under the row its command byte selects (R190). -/
def Instr.wf (P : Params) (i : Instr) : Bool :=
  match i with
  | .crc32c _ _ => true
  | .hex2nibble _ => true
  | .atohex _ => true
  | .hex2str _ => true
  | .pairEncode _ => true
  | .pairDecode _ _ => true
  | .frameEncode _ _ p _ => payloadFits p
  | .rxByte _ => true
  | .dispatchResponse _ _ p => payloadFits p
  | .reset => true
  | .otpDecode _ => true
  | .otpGet _ _ _ => true
  | .otpGetValue _ _ _ _ => true
  | .respAck _ p _ => payloadFits p
  | .respNack _ p _ => payloadFits p
  | .reqData f => f.wf && decide (P.cmdData = some f.cmd)
  | .reqXferStart f => f.wf && decide (P.cmdData ≠ some f.cmd) && decide (P.cmdXferStart = some f.cmd)
  | .reqCont f =>
    f.wf && decide (P.cmdData ≠ some f.cmd) && decide (P.cmdXferStart ≠ some f.cmd) && decide (P.cmdCont = some f.cmd)
  | .reqDispatch f =>
    f.wf && decide (P.cmdData ≠ some f.cmd) && decide (P.cmdXferStart ≠ some f.cmd) && decide (P.cmdCont ≠ some f.cmd)
  | .frameGarbled hdr => !Machine.headerOk hdr
  | .delimHex => true
  | .delimBin => true
  | .otpRecInvalidSize0 _ => true
  | .otpRecSize1 _ => true
  | .otpRecSize2 _ => true
  | .otpRecSize3 _ => true
  | .otpRecSize4 _ => true
  | .otpRecSize5 _ => true
  | .otpRecSize6 _ => true
  | .otpRecInvalidSize7 _ => true

end Sys2Proof
end

