-- ==== Sys2Proof/Decode.lean ====
section
/-! DEFINITION. From a transaction's bytes to an instruction, total and refusing by name, and the encoder beside it.
A wire frame is read in the layout of spec/30_encoding.md R70 and R71, a record in that of R80. The operation codes are
R84's; the spec gives their operands no bytes, so their layout is the model's (DESIGN CHOICE, log entry 6). -/

namespace Sys2Proof

/-- One byte's mode operand: 0 is HEX, 1 is BIN (log entry 6). -/
def modeOfByte (b : Byte) : Option Mode :=
  if b = 0#8 then some .hex else if b = 1#8 then some .bin else none

/-- The byte of a mode operand. -/
def byteOfMode (m : Mode) : Byte :=
  match m with
  | .hex => 0#8
  | .bin => 1#8

/-- One byte's kind operand: 0 is ACK, 1 is NACK (log entry 6). -/
def kindOfByte (b : Byte) : Option Kind :=
  if b = 0#8 then some .ack else if b = 1#8 then some .nack else none

/-- The byte of a kind operand. -/
def byteOfKind (k : Kind) : Byte :=
  match k with
  | .ack => 0#8
  | .nack => 1#8

/-- `OTP_GET_VALUE`'s operands after `raw`: offset, base, buf_size. -/
def decodeGetValue (raw : Vector Byte 8) (bs : List Byte) : Except DecodeError Instr :=
  match Machine.takeNat bs with
  | none => .error .badOperands
  | some (offset, bs1) =>
    match Machine.takeNat bs1 with
    | none => .error .badOperands
    | some (base, bs2) =>
      match Machine.takeNat bs2 with
      | none => .error .badOperands
      | some (bufSize, []) => .ok (.otpGetValue raw offset base bufSize)
      | some (_, _ :: _) => .error .trailingBytes

/-- `OTP_GET`'s operands after `tag`: base, buf_size. -/
def decodeGet (tag : U32) (bs : List Byte) : Except DecodeError Instr :=
  match Machine.takeNat bs with
  | none => .error .badOperands
  | some (base, bs1) =>
    match Machine.takeNat bs1 with
    | none => .error .badOperands
    | some (bufSize, []) => .ok (.otpGet tag base bufSize)
    | some (_, _ :: _) => .error .trailingBytes

/-- `FRAME_ENCODE`'s operands after `cmd`: arg0, mode, and the payload to the end. -/
def decodeFrameEncode (cmd : Byte) (bs : List Byte) : Except DecodeError Instr :=
  match Machine.take32 bs with
  | some (arg0, m :: payload) =>
    match modeOfByte m with
    | none => .error .badOperands
    | some mode => if payloadFits payload then .ok (.frameEncode cmd arg0 payload mode) else .error .payloadTooLong
  | _ => .error .badOperands

/-- `DISPATCH_RESPONSE`'s operands after the kind byte: arg0, and the payload to the end. -/
def decodeResponse (k : Byte) (bs : List Byte) : Except DecodeError Instr :=
  match kindOfByte k, Machine.take32 bs with
  | some kind, some (arg0, payload) =>
    if payloadFits payload then .ok (.dispatchResponse kind arg0 payload) else .error .payloadTooLong
  | _, _ => .error .badOperands

/-- The operands of operation code `code` (R84). -/
def decodeOperands (code : Nat) (bs : List Byte) : Except DecodeError Instr :=
  match code with
  | 0x01 =>
    match Machine.take32 bs with
    | some (seed, data) => .ok (.crc32c seed data)
    | none => .error .badOperands
  | 0x02 =>
    match bs with
    | [ch] => .ok (.hex2nibble ch)
    | [] => .error .badOperands
    | _ => .error .trailingBytes
  | 0x03 => .ok (.atohex bs)
  | 0x04 =>
    match Machine.take32 bs with
    | some (v, []) => .ok (.hex2str v)
    | some (_, _ :: _) => .error .trailingBytes
    | none => .error .badOperands
  | 0x05 =>
    match bs with
    | [b] => .ok (.pairEncode b)
    | [] => .error .badOperands
    | _ => .error .trailingBytes
  | 0x06 =>
    match bs with
    | [hi, lo] => .ok (.pairDecode hi lo)
    | _ :: _ :: _ => .error .trailingBytes
    | _ => .error .badOperands
  | 0x07 =>
    match bs with
    | cmd :: rest => decodeFrameEncode cmd rest
    | [] => .error .badOperands
  | 0x10 =>
    match bs with
    | [b] => .ok (.rxByte b)
    | [] => .error .badOperands
    | _ => .error .trailingBytes
  | 0x11 =>
    match bs with
    | k :: rest => decodeResponse k rest
    | [] => .error .badOperands
  | 0x12 =>
    match bs with
    | [] => .ok .reset
    | _ => .error .trailingBytes
  | 0x20 =>
    match Machine.take8 bs with
    | some (raw, []) => .ok (.otpDecode raw)
    | some (_, _ :: _) => .error .trailingBytes
    | none => .error .badOperands
  | 0x21 =>
    match Machine.take32 bs with
    | some (tag, rest) => decodeGet tag rest
    | none => .error .badOperands
  | 0x22 =>
    match Machine.take8 bs with
    | some (raw, rest) => decodeGetValue raw rest
    | none => .error .badOperands
  | _ => .error .unknownOperation

/-- An OP transaction: the operation code, then its operands. -/
def decodeOp (bs : List Byte) : Except DecodeError Instr :=
  match bs with
  | [] => .error .unknownOperation
  | code :: operands => decodeOperands code.toNat operands

/-- The bytes of a wire frame, taken apart by the layout of R71 and the length rule of R85. -/
def parseFrame (bs : List Byte) : Except DecodeError Frame :=
  match bs with
  | s :: c :: p1 :: r1 =>
    if s ≠ Config.sof then .error .noSof
    else if p1 ≠ Config.sep then .error .garbledHeader
    else match Machine.take8 r1 with
      | some (a, p2 :: r2) =>
        if p2 ≠ Config.sep then .error .garbledHeader
        else match Machine.take8 r2 with
          | some (l, d :: r3) =>
            match Machine.modeOfDelim d with
            | none => .error .garbledHeader
            | some m =>
              let n := Machine.wireLen (Machine.atohex l.toList).toNat m
              match Machine.take8 (r3.drop n) with
              | some (t, []) => .ok ⟨c, a, l, m, r3.take n, t⟩
              | _ => .error .badLength
          | _ => .error .badLength
      | _ => .error .badLength
  | _ => .error .badLength

/-- The row a complete request frame falls under: CMD_DATA first, then CMD_XFER_START and CMD_CONT, and REQ_DISPATCH
for every other command byte (R190; spec/opcode_table.json). -/
def classifyRequest (P : Params) (f : Frame) : Instr :=
  if P.cmdData = some f.cmd then .reqData f
  else if P.cmdXferStart = some f.cmd then .reqXferStart f
  else if P.cmdCont = some f.cmd then .reqCont f
  else .reqDispatch f

/-- A received frame: accepted header, matching CRC (R143), then its row. -/
def decodeRx (P : Params) (bs : List Byte) : Except DecodeError Instr :=
  match parseFrame bs with
  | .error e => .error e
  | .ok f => if f.wf then .ok (classifyRequest P f) else .error .crcMismatch

/-- A transmitted frame: exactly what FRAME_ENCODE makes for an ACK or a NACK (R170, R174). -/
def decodeTx (bs : List Byte) : Except DecodeError Instr :=
  match parseFrame bs with
  | .error e => .error e
  | .ok f =>
    let arg0 := Machine.atohex f.arg0.toList
    let payload := Machine.framePayload f
    if bs ≠ Machine.frameEncode f.cmd arg0 payload f.mode ∨ payloadFits payload = false then .error .notAResponse
    else if f.cmd = Config.cmdAck then .ok (.respAck arg0 payload f.mode)
    else if f.cmd = Config.cmdNack then .ok (.respNack arg0 payload f.mode)
    else .error .notAResponse

/-- A header of 20 bytes that fails the structural check (R133, R134). -/
def decodeHeader (bs : List Byte) : Except DecodeError Instr :=
  if h : bs.length = 20 then
    let hdr : Vector Byte 20 := ⟨bs.toArray, by simpa using h⟩
    if Machine.headerOk hdr then .error .notGarbled else .ok (.frameGarbled hdr)
  else .error .notGarbled

/-- Frame byte 20 (R71, R135). -/
def decodeDelim (bs : List Byte) : Except DecodeError Instr :=
  match bs with
  | [b] =>
    match Machine.modeOfDelim b with
    | some .hex => .ok .delimHex
    | some .bin => .ok .delimBin
    | none => .error .notADelimiter
  | _ => .error .notADelimiter

/-- A record by the size field of its byte 7 (R80, R81). -/
def classifyRecord (size : Nat) (r : RecordBody) : Instr :=
  match size with
  | 0 => .otpRecInvalidSize0 r
  | 1 => .otpRecSize1 r
  | 2 => .otpRecSize2 r
  | 3 => .otpRecSize3 r
  | 4 => .otpRecSize4 r
  | 5 => .otpRecSize5 r
  | 6 => .otpRecSize6 r
  | _ => .otpRecInvalidSize7 r

/-- The 8 bytes of a record (R80). -/
def decodeRecord (bs : List Byte) : Except DecodeError Instr :=
  match bs with
  | [v0, v1, v2, v3, v4, v5, t, b7] =>
    .ok (classifyRecord (b7.extractLsb' 5 3).toNat ⟨#v[v0, v1, v2, v3, v4, v5], t, b7.extractLsb' 4 1, b7.extractLsb' 0 4⟩)
  | _ => .error .notARecord

/-- The instruction a transaction is, under the parameters that name the command codes. -/
def decode (P : Params) (t : Transaction) : Except DecodeError Instr :=
  match t.format with
  | .op => decodeOp t.bytes
  | .frameTx => decodeTx t.bytes
  | .frameRx => decodeRx P t.bytes
  | .header => decodeHeader t.bytes
  | .delim => decodeDelim t.bytes
  | .record => decodeRecord t.bytes

/-- The record transaction of a size and a body (R80). -/
def encodeRecord (size : BitVec 3) (r : RecordBody) : Transaction :=
  ⟨.record, (Machine.recordBytes size r).toList⟩

/-- The transaction of an instruction. -/
def encode (i : Instr) : Transaction :=
  match i with
  | .crc32c seed data => ⟨.op, 0x01#8 :: Machine.be32 seed ++ data⟩
  | .hex2nibble ch => ⟨.op, [0x02#8, ch]⟩
  | .atohex chars => ⟨.op, 0x03#8 :: chars⟩
  | .hex2str v => ⟨.op, 0x04#8 :: Machine.be32 v⟩
  | .pairEncode b => ⟨.op, [0x05#8, b]⟩
  | .pairDecode hi lo => ⟨.op, [0x06#8, hi, lo]⟩
  | .frameEncode cmd arg0 p m => ⟨.op, [0x07#8, cmd] ++ Machine.be32 arg0 ++ byteOfMode m :: p⟩
  | .rxByte b => ⟨.op, [0x10#8, b]⟩
  | .dispatchResponse k arg0 p => ⟨.op, [0x11#8, byteOfKind k] ++ Machine.be32 arg0 ++ p⟩
  | .reset => ⟨.op, [0x12#8]⟩
  | .otpDecode raw => ⟨.op, 0x20#8 :: raw.toList⟩
  | .otpGet tag base n => ⟨.op, 0x21#8 :: Machine.be32 tag ++ Machine.natBytes base ++ Machine.natBytes n⟩
  | .otpGetValue raw offset base n =>
    ⟨.op, 0x22#8 :: raw.toList ++ Machine.natBytes offset ++ Machine.natBytes base ++ Machine.natBytes n⟩
  | .respAck arg0 p m => ⟨.frameTx, Machine.frameEncode Config.cmdAck arg0 p m⟩
  | .respNack arg0 p m => ⟨.frameTx, Machine.frameEncode Config.cmdNack arg0 p m⟩
  | .reqData f => ⟨.frameRx, Machine.frameBytes f⟩
  | .reqXferStart f => ⟨.frameRx, Machine.frameBytes f⟩
  | .reqCont f => ⟨.frameRx, Machine.frameBytes f⟩
  | .reqDispatch f => ⟨.frameRx, Machine.frameBytes f⟩
  | .frameGarbled hdr => ⟨.header, hdr.toList⟩
  | .delimHex => ⟨.delim, [Config.delimHex]⟩
  | .delimBin => ⟨.delim, [Config.delimBin]⟩
  | .otpRecInvalidSize0 r => encodeRecord 0#3 r
  | .otpRecSize1 r => encodeRecord 1#3 r
  | .otpRecSize2 r => encodeRecord 2#3 r
  | .otpRecSize3 r => encodeRecord 3#3 r
  | .otpRecSize4 r => encodeRecord 4#3 r
  | .otpRecSize5 r => encodeRecord 5#3 r
  | .otpRecSize6 r => encodeRecord 6#3 r
  | .otpRecInvalidSize7 r => encodeRecord 7#3 r

/-- How many operand bytes of value 0 make the all-zero operands of an operation code (log entry 7). -/
def operandZeros (code : Nat) : Nat :=
  match code with
  | 0x01 => 4
  | 0x02 => 1
  | 0x04 => 4
  | 0x05 => 1
  | 0x06 => 2
  | 0x07 => 6
  | 0x10 => 1
  | 0x11 => 5
  | 0x20 => 8
  | 0x21 => 6
  | 0x22 => 11
  | _ => 0

/-- Is the byte an operation code of R84? -/
def isOperation (code : Nat) : Bool :=
  (decide (1 ≤ code) && decide (code ≤ 7)) || (decide (0x10 ≤ code) && decide (code ≤ 0x12))
    || (decide (0x20 ≤ code) && decide (code ≤ 0x22))

/-- The transaction of an 8-bit row of spec/opcode_table.json. The table has three kinds of 8-bit row whose bits
overlap: an operation code is taken first, then a delimiter, then a record's byte 7 (log entry 7). -/
def tableByte (w : Nat) : Transaction :=
  if isOperation w then ⟨.op, BitVec.ofNat 8 w :: List.replicate (operandZeros w) 0#8⟩
  else if w = 0x23 ∨ w = 0x25 then ⟨.delim, [BitVec.ofNat 8 w]⟩
  else ⟨.record, List.replicate 7 0#8 ++ [BitVec.ofNat 8 w]⟩

/-- The transaction of a FRAME24 row: SOF, cmd and separator as the table's 24-bit big-endian value, and the operands
of value 0 as the wire writes them: `arg0` 0, `len` 0, delimiter `#`, and the trailer that matches (log entry 7).
The command bytes `A` and `N` are the response rows, transmit direction. -/
def tableFrame (w : Nat) : Transaction :=
  let head : List Byte := [BitVec.ofNat 8 (w / 2 ^ 16), BitVec.ofNat 8 (w / 2 ^ 8), BitVec.ofNat 8 w]
  let body := head.drop 1 ++ Machine.hex2str 0#32 ++ [Config.sep] ++ Machine.hex2str 0#32 ++ [Config.delimHex]
  let cmd : Byte := BitVec.ofNat 8 (w / 2 ^ 8)
  ⟨if cmd = Config.cmdAck ∨ cmd = Config.cmdNack then .frameTx else .frameRx,
    head.take 1 ++ body ++ Machine.hex2str (Machine.crc32c 0#32 body)⟩

/-- The transaction that the host's word stands for: `nbits` bits `w`, numbered as spec/opcode_table.json numbers them.
160 bits are a header, byte 0 most significant. -/
def tableTransaction (nbits w : Nat) : Transaction :=
  if nbits = 8 then tableByte (w % 2 ^ 8)
  else if nbits = 24 then tableFrame (w % 2 ^ 24)
  else if nbits = 160 then ⟨.header, (List.range 20).map fun k => BitVec.ofNat 8 (w / 2 ^ (8 * (19 - k)))⟩
  else ⟨.op, []⟩

/-- What the decoder reads from the host's word, under the parameters State.reset holds. -/
def decodeTableWord (nbits w : Nat) : Option Instr :=
  match decode Params.default (tableTransaction nbits w) with
  | .ok i => some i
  | .error _ => none

end Sys2Proof
end

