-- ==== Sys2Proof/Machine/Memory.lean ====
section
/-! DEFINITION. The byte memories of spec/20_memory.md R50 (OTP, DEST, CALLER, and PBUF): (address, byte) pairs in one
canonical form, and every operation on them. -/

namespace Sys2Proof.Machine

/-- A byte memory: addresses strictly rising, and no entry equal to what an unlisted address reads as. -/
abbrev Memory := List Host.Cell

/-- What an unlisted address reads as: 0, which in OTP is an erased byte (R81).
DESIGN CHOICE (log entry 4; unsafe): the spec leaves bytes that nothing has written to the environment (U4). -/
def Memory.unlisted : Byte := 0#8

/-- The canonical form. -/
def Memory.wf (m : Memory) : Bool :=
  match m with
  | [] => true
  | [(_, v)] => decide (v ≠ Memory.unlisted)
  | (a, v) :: (b, w) :: rest =>
    decide (v ≠ Memory.unlisted) && decide (a < b) && Memory.wf ((b, w) :: rest)

/-- The byte at an address. -/
def Memory.read (m : Memory) (addr : Nat) : Byte :=
  match m with
  | [] => Memory.unlisted
  | (a, v) :: rest => if a = addr then v else Memory.read rest addr

/-- `MemWrite(space, addr, 1, v)` (R9); writing what an unlisted address reads as removes the entry. -/
def Memory.write (m : Memory) (addr : Nat) (v : Byte) : Memory :=
  match m with
  | [] => if v = Memory.unlisted then [] else [(addr, v)]
  | (a, w) :: rest =>
    if addr < a then (if v = Memory.unlisted then (a, w) :: rest else (addr, v) :: (a, w) :: rest)
    else if addr = a then (if v = Memory.unlisted then rest else (a, v) :: rest)
    else (a, w) :: Memory.write rest addr v

/-- `for i in 0 .. len(bs)-1: MemWrite(space, addr + i, 1, bs[i])`. -/
def Memory.writeBytes (m : Memory) (addr : Nat) (bs : List Byte) : Memory :=
  match bs with
  | [] => m
  | b :: rest => Memory.writeBytes (Memory.write m addr b) (addr + 1) rest

/-- `for i in 0 .. n-1: MemWrite(space, addr + i, 1, 0)`: the zero fill of R226. -/
def Memory.zeroFill (m : Memory) (addr n : Nat) : Memory :=
  match n with
  | 0 => m
  | n + 1 => Memory.zeroFill (Memory.write m addr 0#8) (addr + 1) n

/-- The `n` bytes from `addr` on, in ascending order (R56). -/
def Memory.readBytes (m : Memory) (addr n : Nat) : List Byte :=
  match n with
  | 0 => []
  | n + 1 => Memory.read m addr :: Memory.readBytes m (addr + 1) n

end Sys2Proof.Machine
end

