-- ==== Sys2Proof/Machine/State.lean ====
section
/-! DEFINITION. The state of BFC/OTS as plain data: every register of spec/10_state.md, the parameters and launch inputs
of spec/00_scope.md R7, and what the external agents hold that the rules read or write (R37, R50). -/

namespace Sys2Proof.Machine

/-- The values of the engine's FSM register STATE (R21). -/
inductive Fsm where
  | awaitSof
  | readHeader
  | readPayload
  | readCrc
  | dispatchWait
  | exited
deriving DecidableEq, Repr

/-- The request record handed to the dispatcher (R30, R192). -/
structure Request where
  cmd : Byte
  arg0 : U32
  len : U32
  payload : List Byte
  mode : Mode
deriving DecidableEq, Repr

/-- One event of the transport's transmit log (R55). -/
inductive TxEvent where
  | byte (b : Byte)
  | flush
deriving DecidableEq, Repr

/-- What an operation returns to its caller (R84). -/
inductive OpResult where
  /-- A u32: CRC32C, HEX2NIBBLE, ATOHEX. -/
  | u32 (v : U32)
  /-- A u8: PAIR_DECODE. -/
  | u8 (b : Byte)
  /-- Bytes: HEX2STR, PAIR_ENCODE, FRAME_ENCODE. -/
  | bytes (bs : List Byte)
  /-- OTP_DECODE's fields. -/
  | fields (d : OtpFields)
  /-- A record row's fields and value bytes. -/
  | record (d : OtpFields) (value : List Byte)
  /-- An OTS operation's status. -/
  | status (st : Status)
deriving DecidableEq, Repr

/-- Why no step is taken. None is a trap: the block has none (R260). -/
inductive Fault where
  /-- `HANG_RX` (R267): the engine waits for a byte, the transport has none, and nothing else is pending. Raised by step.
  Safe: the machine stops where the hardware waits for ever. -/
  | hangRx
  /-- `HANG_DISPATCH` (R193, R261): the engine waits for the dispatcher's response and nothing is pending. Raised by step.
  Safe, as above. -/
  | hangDispatch
  /-- The engine has left the monitor loop, where it takes no byte and makes no response (R142, R196). Raised by step when
  nothing is pending, and by exec on a response row. Safe, as above. -/
  | exited
  /-- DISPATCH_RESPONSE outside DISPATCH_WAIT, where it has no step (R194, R290). Raised by exec on that instruction, and
  by step when nothing but such responses is pending. Safe: it takes no step that R194 does not give. -/
  | responseHasNoStep
deriving DecidableEq, Repr

/-- Why a call is not accepted. -/
inductive Refusal where
  /-- An instruction with no meaning in the model, by its mnemonic. Raised by exec's refused arms; there are none. Safe. -/
  | notModelled (mnemonic : String)
  /-- A payload of 2^32 bytes or more, outside the operation's domain (R173, R193; O1, O2). Raised by FRAME_ENCODE,
  DISPATCH_RESPONSE and the response rows. Safe: the spec says a model refuses it. -/
  | payloadTooLong
  /-- A response frame in another mode than RESP_MODE, which the block never sends (R174, R176). Raised by the response
  rows. Safe: the spec gives no such step. -/
  | notInResponseMode
  /-- Command-code parameters that are not pairwise distinct (R7; O7). Raised by step. Safe: the spec says a model does not
  accept the configuration. -/
  | badParameters
  /-- A transaction that neither is an instruction of the table nor brings received bytes, with the reason: an operation R84
  does not list, operands outside its domain, a frame sent that is no response, a record that is not 8 bytes. Raised by step.
  Safe: the block performs exactly R84's operations, on operands in their domain (R14). A DISPATCH_RESPONSE that has no step
  (R194) is passed over before it is decoded, so it is not refused (log entry 24). -/
  | undecodable (e : DecodeError)
deriving DecidableEq, Repr

end Sys2Proof.Machine

namespace Sys2Proof.Machine

/-- The machine's state. The first group is the engine's registers, under the spec's names (spec/10_state.md). -/
@[ext]
structure State where
  /-- `STATE` (R21). -/
  fsm : Fsm
  /-- `HDR[0..19]` (R22). -/
  hdr : Vector Byte 20
  /-- `HIDX`, 0..20 (R22). -/
  hidx : Nat
  /-- `REQ_CMD` (R23). -/
  reqCmd : Byte
  /-- `REQ_ARG0` (R23). -/
  reqArg0 : U32
  /-- `REQ_LEN` (R23). -/
  reqLen : U32
  /-- `REQ_MODE` (R23). -/
  reqMode : Mode
  /-- `CRC_ACC` (R24). -/
  crcAcc : U32
  /-- `PCNT` (R25). -/
  pcnt : Nat
  /-- `PHASE`, 0 or 1 (R25). -/
  phase : Fin 2
  /-- `HOLD` (R25). -/
  hold : Byte
  /-- `PBUF[0..PAYLOAD_MAX-1]` (R26). -/
  pbuf : Memory
  /-- `TRL[0..7]` (R27). -/
  trl : Vector Byte 8
  /-- `TIDX`, 0..8 (R27). -/
  tidx : Nat
  /-- `RESP_MODE` (R28). -/
  respMode : Mode
  /-- `DATA_EXPECTED` (R29). -/
  dataExpected : Nat
  /-- `PENDING`; none is "empty" (R30). -/
  pending : Option Request
  /-- The instantiation parameters (R7). -/
  params : Params
  /-- `OTP_IMAGE`, the 8192 bytes of OTP (R7, R51). -/
  otpImage : Memory
  /-- `OTP_BAD`, the offsets whose record read fails (R7, R60). -/
  otpBad : List Nat
  /-- The `DEST` space (R52). -/
  dest : Memory
  /-- The `CALLER` space (R53). -/
  caller : Memory
  /-- The transport's receive queue, oldest byte first (R54). -/
  rx : List Byte
  /-- The transport's transmit log, oldest event first (R55). -/
  tx : List TxEvent
  /-- The model's own: the transactions the outside agents have handed in, oldest first (log entry 5). -/
  inbox : List Transaction
  /-- The model's own: what operations returned to the caller, oldest first (log entry 15). -/
  returns : List OpResult
deriving DecidableEq, Repr

/-- The engine right after reset, the rest as launched: R36's values for the registers R36 gives one.
DESIGN CHOICE (log entry 2; unsafe): 0 and HEX for the registers R36 calls unspecified, nothing listed in any memory, no
failing record, nothing queued or logged, and the parameters of Params.default (log entry 1). -/
def State.reset : State where
  fsm := .awaitSof
  hdr := Vector.replicate 20 0#8
  hidx := 0
  reqCmd := 0#8
  reqArg0 := 0#32
  reqLen := 0#32
  reqMode := .hex
  crcAcc := 0#32
  pcnt := 0
  phase := 0
  hold := 0#8
  pbuf := []
  trl := Vector.replicate 8 0#8
  tidx := 0
  respMode := .hex
  dataExpected := 0
  pending := none
  params := Params.default
  otpImage := []
  otpBad := []
  dest := []
  caller := []
  rx := []
  tx := []
  inbox := []
  returns := []

end Sys2Proof.Machine
end

