-- ==== Sys2Proof/Machine/Ops.lean ====
section
/-! DEFINITION. The named operations over the state: the transport (spec/20_memory.md), the response step
(spec/42_frame_tx.md), error entry (spec/60_exceptions.md R270), the receive state machine (spec/41_frame_rx.md), the data
sequencer and dispatch (spec/43_dispatch_data.md), reset (spec/70_reset_and_hazards.md), and the OTP scan
(spec/44_otp_tags.md). -/

namespace Sys2Proof.Machine

/-! ### Transport and results -/

/-- `TxBytes(bs)` (R55). -/
def txBytes (bs : List Byte) (s : State) : State := { s with tx := s.tx ++ bs.map TxEvent.byte }

/-- `Flush()`: a flush event, no byte (R55, R175). -/
def txFlush (s : State) : State := { s with tx := s.tx ++ [TxEvent.flush] }

/-- An operation's result goes to its caller (R84; log entry 15). -/
def returned (r : OpResult) (s : State) : State := { s with returns := s.returns ++ [r] }

/-- `state <- S`: the engine's FSM transition (R9). -/
def goto (f : Fsm) (s : State) : State := { s with fsm := f }

/-! ### Responses and error entry -/

/-- `Respond(kind, a, p)`: one whole frame in RESP_MODE and one flush (R174, R175, R176). -/
def respond (k : Kind) (a : U32) (p : List Byte) (s : State) : State :=
  txFlush (txBytes (frameEncode (kindCmd k) a p s.respMode) s)

/-- Error entry (R270): the NACK with arg0 0 and the error's reason string, and STATE <- AWAIT_SOF. No state is saved, and
there is no return from it (R271). -/
def errorEntry (e : EngineError) (s : State) : State :=
  goto .awaitSof (respond .nack 0#32 (errorReason e) s)

/-- The framing error (R134): the NACK only when NACK_ON_GARBLED. -/
def garbledHeader (s : State) : State :=
  if s.params.nackOnGarbled then errorEntry .garbled s else goto .awaitSof s

/-! ### A complete frame -/

/-- The payload bytes `PBUF[0 .. REQ_LEN-1]` (R191, R192). -/
def requestPayload (s : State) : List Byte := Memory.readBytes s.pbuf 0 s.reqLen.toNat

/-- The chunk goes to DEST at DATA_EXPECTED, and DATA_EXPECTED moves past it (R191). -/
def storeChunk (s : State) : State :=
  { s with
    dest := Memory.writeBytes s.dest s.dataExpected (requestPayload s)
    dataExpected := s.dataExpected + s.reqLen.toNat }

/-- An accepted data chunk (R191): DEST, DATA_EXPECTED, ACK-empty. -/
def acceptChunk (s : State) : State := goto .awaitSof (respond .ack 0#32 [] (storeChunk s))

/-- The ordered data-transfer sequencer: strict equality first, then capacity on unbounded naturals (R191, D16). -/
def dataSequencer (s : State) : State :=
  if s.reqArg0.toNat ≠ s.dataExpected then errorEntry .order s
  else if s.dataExpected + s.reqLen.toNat > s.params.destSize then errorEntry .capacity s
  else acceptChunk s

/-- Dispatch to the dispatcher (R192). -/
def dispatchRequest (s : State) : State :=
  goto .dispatchWait
    { s with pending := some ⟨s.reqCmd, s.reqArg0, s.reqLen, requestPayload s, s.reqMode⟩ }

/-- Transfer start (R195). -/
def restartTransfer (s : State) : State :=
  if s.params.cmdXferStart = some s.reqCmd then { s with dataExpected := 0 } else s

/-- Routing a complete frame (R190). -/
def routeFrame (s : State) : State :=
  if s.params.cmdData = some s.reqCmd then dataSequencer s else dispatchRequest (restartTransfer s)

/-- A frame whose CRC matches (R141). -/
def crcMatched (s : State) : State :=
  if s.reqLen.toNat > s.params.payloadMax then errorEntry .oversize s else routeFrame s

/-- The decision of a frame after its 8th trailer character (R139 to R141). -/
def frameDecision (s : State) : State :=
  if atohex s.trl.toList = s.crcAcc then crcMatched s else errorEntry .crc s

/-! ### The receive state machine -/

/-- R131: AWAIT_SOF. -/
def rxAwaitSof (b : Byte) (s : State) : State :=
  if b = Config.sof then goto .readHeader { s with hidx := 0 } else s

/-- R135: header accepted. -/
def acceptHeader (s : State) : State :=
  { s with
    reqCmd := headerCmd s.hdr
    reqArg0 := headerArg0 s.hdr
    reqLen := headerLen s.hdr
    reqMode := headerMode s.hdr
    respMode := headerMode s.hdr
    crcAcc := crc32c 0#32 s.hdr.toList
    pcnt := 0
    phase := 0
    tidx := 0
    fsm := if headerLen s.hdr = 0#32 then .readCrc else .readPayload }

/-- R133: the structural check. -/
def checkHeader (s : State) : State := if headerOk s.hdr then acceptHeader s else garbledHeader s

/-- `HDR[HIDX] <- b ; HIDX <- HIDX + 1` (R132). -/
def storeHeader (b : Byte) (s : State) : State :=
  { s with hdr := s.hdr.setIfInBounds s.hidx b, hidx := s.hidx + 1 }

/-- R132, and R133 on the 20th byte. -/
def rxHeader (b : Byte) (s : State) : State :=
  if (storeHeader b s).hidx = Config.hdrLen then checkHeader (storeHeader b s) else storeHeader b s

/-- `CRC_ACC <- crc32c(CRC_ACC, [b])`: the wire byte itself (R136, R137, R74). -/
def foldCrc (b : Byte) (s : State) : State := { s with crcAcc := crc32c s.crcAcc [b] }

/-- `if i < cap then PBUF[i] <- v`: bytes beyond the capacity are not stored (R26). -/
def bufferWrite (cap : Nat) (m : Memory) (i : Nat) (v : Byte) : Memory := if i < cap then Memory.write m i v else m

/-- `if PCNT < PAYLOAD_MAX then PBUF[PCNT] <- v ; PCNT <- PCNT + 1` (R136, R137). -/
def storePayload (v : Byte) (s : State) : State :=
  { s with
    pbuf := bufferWrite s.params.payloadMax s.pbuf s.pcnt v
    pcnt := s.pcnt + 1 }

/-- R138: payload complete. -/
def payloadDone (s : State) : State :=
  if s.pcnt = s.reqLen.toNat then goto .readCrc { s with tidx := 0 } else s

/-- R136: READ_PAYLOAD in BIN mode. -/
def rxPayloadBin (b : Byte) (s : State) : State := payloadDone (storePayload b (foldCrc b s))

/-- `HOLD <- b ; PHASE <- 1` (R137). -/
def holdHigh (b : Byte) (s : State) : State := { s with hold := b, phase := 1 }

/-- `PHASE <- 0` (R137). -/
def pairDone (s : State) : State := { s with phase := 0 }

/-- R137: READ_PAYLOAD in HEX mode. -/
def rxPayloadHex (b : Byte) (s : State) : State :=
  if s.phase = 0 then holdHigh b (foldCrc b s)
  else payloadDone (pairDone (storePayload (pairDecode s.hold b) (foldCrc b s)))

/-- `TRL[TIDX] <- b ; TIDX <- TIDX + 1` (R139). -/
def storeTrailer (b : Byte) (s : State) : State :=
  { s with trl := s.trl.setIfInBounds s.tidx b, tidx := s.tidx + 1 }

/-- R139, and the frame's decision on the 8th character. -/
def rxTrailer (b : Byte) (s : State) : State :=
  if (storeTrailer b s).tidx = Config.trailerLen then frameDecision (goto .awaitSof (storeTrailer b s))
  else storeTrailer b s

/-- Does the engine take a byte in this state (R130, R142)? -/
def takesByte (s : State) : Bool :=
  match s.fsm with
  | .awaitSof => true
  | .readHeader => true
  | .readPayload => true
  | .readCrc => true
  | .dispatchWait => false
  | .exited => false

/-- The engine's step on a byte it has taken: exactly one rule, chosen by STATE (R130). -/
def rxRule (b : Byte) (s : State) : State :=
  match s.fsm with
  | .awaitSof => rxAwaitSof b s
  | .readHeader => rxHeader b s
  | .readPayload =>
    match s.reqMode with
    | .bin => rxPayloadBin b s
    | .hex => rxPayloadHex b s
  | .readCrc => rxTrailer b s
  | .dispatchWait => s
  | .exited => s

/-- The engine takes the oldest byte of the transport's queue, if it takes bytes and there is one (R54, R142). -/
def engineTake (s : State) : State :=
  if takesByte s then
    match s.rx with
    | [] => s
    | b :: rest => rxRule b { s with rx := rest }
  else s

/-- The transport delivers a byte: it joins the queue, and the engine takes the oldest (R54, R130; log entry 8). -/
def receive (b : Byte) (s : State) : State := engineTake { s with rx := s.rx ++ [b] }

/-- Bytes delivered one RX_BYTE at a time (R86 `REQUEST`). -/
def deliver (bs : List Byte) (s : State) : State :=
  match bs with
  | [] => s
  | b :: rest => deliver rest (receive b s)

/-! ### Dispatcher response and reset -/

/-- Is the request in PENDING the continue command (R194, R196)? -/
def continues (s : State) : Bool :=
  match s.pending with
  | some q => decide (s.params.cmdCont = some q.cmd)
  | none => false

/-- `PENDING <- empty` (R194). -/
def clearPending (s : State) : State := { s with pending := none }

/-- R194 in DISPATCH_WAIT: the response, PENDING emptied, and the monitor exit of the continue command. -/
def dispatcherResponds (k : Kind) (a : U32) (p : List Byte) (s : State) : State :=
  goto (if continues s then .exited else .awaitSof) (clearPending (respond k a p s))

/-- R290: every engine register to its reset value. R291: nothing else changes.
The registers R36 calls unspecified take the values State.reset names (log entries 2 and 3). -/
def resetEngine (s : State) : State :=
  { State.reset with
    params := s.params
    otpImage := s.otpImage
    otpBad := s.otpBad
    dest := s.dest
    caller := s.caller
    rx := s.rx
    tx := s.tx
    inbox := s.inbox
    returns := s.returns }

/-! ### The OTP tag scanner -/

/-- `OtpRead(off)`: the record's 8 bytes in ascending order, or none, which is `FAIL`, exactly when `off ∈ OTP_BAD`
(R56, R60). -/
def otpRead (s : State) (off : Nat) : Option (Vector Byte 8) :=
  if s.otpBad.contains off then none
  else some (Vector.ofFn fun k : Fin 8 => Memory.read s.otpImage (off + k.val))

/-- How a scan ends. -/
inductive Scan where
  /-- The head of the chain that carries the tag, and its offset (R224). -/
  | found (raw : Vector Byte 8) (off : Nat)
  /-- The region ended (R222, R225). -/
  | absent
  /-- A record read failed (R224, R225). -/
  | failed
deriving DecidableEq, Repr

/-- R222's scan from offset `off`. `skipping` says that the record before was part of a chain of another tag and had
`cont = 1`: the record at `off` is then passed over and only its cont bit read (R225); otherwise an invalid record is
passed over and its cont bit not followed (R223). The fuel counts the records left. -/
def otpScan (s : State) (tag : U32) (fuel : Nat) (off : Nat) (skipping : Bool) : Scan :=
  match fuel with
  | 0 => .absent
  | fuel + 1 =>
    if off ≥ Config.tagEnd then .absent
    else match otpRead s off with
      | none => .failed
      | some raw =>
        let d := otpDecode s.params.tagIdB7Bit raw
        if skipping then otpScan s tag fuel (off + Config.recSize) d.cont
        else if d.valid then
          if d.tagId.setWidth 32 = tag then .found raw off
          else otpScan s tag fuel (off + Config.recSize) d.cont
        else otpScan s tag fuel (off + Config.recSize) false

/-- The number of records of the tag region (R51). -/
def recordCount : Nat := (Config.tagEnd - Config.tagStart) / Config.recSize

/-- R226's loop at the record `raw` at offset `off`, with `total` bytes copied and the CALLER space `mem`.
The fuel counts the records from `off` to the end of the region. -/
def otpCopy (s : State) (base bufSize : Nat) (fuel : Nat) (raw : Vector Byte 8) (off total : Nat) (mem : Memory) :
    Status × Memory :=
  match fuel with
  | 0 => (.ebadf, mem)
  | fuel + 1 =>
    let n := min (recordSize raw) (bufSize - total)
    let mem' := Memory.writeBytes mem (base + total) (raw.toList.take n)
    if recordCont raw = false ∨ total + n = bufSize then (.count (total + n), mem')
    else if off + Config.recSize ≥ Config.tagEnd then (.ebadf, mem')
    else match otpRead s (off + Config.recSize) with
      | none => (.eio, mem')
      | some raw' =>
        if recordValid raw' then otpCopy s base bufSize fuel raw' (off + Config.recSize) (total + n) mem'
        else (.eio, mem')

/-- `otp_get_value(raw, offset, base, buf_size)`: the status, and the CALLER space after it (R226). -/
def otpGetValue (raw : Vector Byte 8) (offset base bufSize : Nat) (s : State) : Status × Memory :=
  if offset % Config.recSize ≠ 0 ∨ offset < Config.tagStart ∨ offset ≥ Config.tagEnd then (.ebadf, s.caller)
  else if recordValid raw = false then (.eio, s.caller)
  else otpCopy s base bufSize ((Config.tagEnd - offset) / Config.recSize) raw offset 0
    (Memory.zeroFill s.caller base bufSize)

/-- `otp_get(tag, base, buf_size)`: the status, and the CALLER space after it (R222). -/
def otpGet (tag : U32) (base bufSize : Nat) (s : State) : Status × Memory :=
  match otpScan s tag recordCount Config.tagStart false with
  | .found raw off => otpGetValue raw off base bufSize s
  | .absent => (.enoent, s.caller)
  | .failed => (.eio, s.caller)

/-- An OTS operation's effect: the CALLER space and the status to the caller. -/
def otsReturn (r : Status × Memory) (s : State) : State := returned (.status r.1) { s with caller := r.2 }

end Sys2Proof.Machine
end

