-- ==== Sys2Proof/Machine/CodecFamily.lean ====
section
/-! DEFINITION. The pure operations 0x01 to 0x07 (spec/40_crc_hex.md, spec/42_frame_tx.md R173): each returns its value
to its caller and changes nothing else. -/

namespace Sys2Proof.Machine

/-- CRC32C (R100). -/
def execCrc32c (seed : U32) (data : List Byte) (s : State) : Host.Outcome State Fault Refusal :=
  .next (returned (.u32 (crc32c seed data)) s)

/-- HEX2NIBBLE (R103). -/
def execHex2nibble (ch : Byte) (s : State) : Host.Outcome State Fault Refusal :=
  .next (returned (.u32 (hex2nibble ch)) s)

/-- ATOHEX (R104). -/
def execAtohex (chars : List Byte) (s : State) : Host.Outcome State Fault Refusal :=
  .next (returned (.u32 (atohex chars)) s)

/-- HEX2STR (R106). -/
def execHex2str (v : U32) (s : State) : Host.Outcome State Fault Refusal :=
  .next (returned (.bytes (hex2str v)) s)

/-- PAIR_ENCODE (R107). -/
def execPairEncode (b : Byte) (s : State) : Host.Outcome State Fault Refusal :=
  .next (returned (.bytes (pairEncode b)) s)

/-- PAIR_DECODE (R108). -/
def execPairDecode (hi lo : Byte) (s : State) : Host.Outcome State Fault Refusal :=
  .next (returned (.u8 (pairDecode hi lo)) s)

/-- FRAME_ENCODE (R173); a payload of 2^32 bytes or more is outside its domain (O1). -/
def execFrameEncode (cmd : Byte) (arg0 : U32) (payload : List Byte) (mode : Mode) (s : State) :
    Host.Outcome State Fault Refusal :=
  if payloadFits payload then .next (returned (.bytes (frameEncode cmd arg0 payload mode)) s)
  else .refused .payloadTooLong

end Sys2Proof.Machine
end

