-- ==== Sys2Proof/Machine/EngineFamily.lean ====
section
/-! DEFINITION. The engine's operations 0x10 to 0x12 (spec/41_frame_rx.md R130, spec/43_dispatch_data.md R194,
spec/70_reset_and_hazards.md R290). -/

namespace Sys2Proof.Machine

/-- RX_BYTE (R130): the transport delivers `b`, and the engine takes the oldest byte it holds. In DISPATCH_WAIT and EXITED
no byte is taken and `b` stays in the queue (R142). -/
def execRxByte (b : Byte) (s : State) : Host.Outcome State Fault Refusal := .next (receive b s)

/-- DISPATCH_RESPONSE (R194): enabled only in DISPATCH_WAIT. A payload of 2^32 bytes or more breaks the dispatcher's
contract (R193, O2); that this is asked before R194's condition is the model's choice (log entry 24). -/
def execDispatchResponse (k : Kind) (arg0 : U32) (payload : List Byte) (s : State) :
    Host.Outcome State Fault Refusal :=
  if payloadFits payload = false then .refused .payloadTooLong
  else if s.fsm = .dispatchWait then .next (dispatcherResponds k arg0 payload s)
  else .fault .responseHasNoStep

/-- RESET (R290, R291). -/
def execReset (s : State) : Host.Outcome State Fault Refusal := .next (resetEngine s)

end Sys2Proof.Machine
end

