-- ==== Sys2Proof/Machine/FrameFamily.lean ====
section
/-! DEFINITION. The frame rows of spec/opcode_table.json. A response row is the frame the engine's Respond step sends
(spec/42_frame_tx.md R170, R174). A request row is a complete frame arriving: its bytes are delivered one RX_BYTE at a time
(spec/30_encoding.md R86 `REQUEST`), and the engine itself routes it by its command byte (R190), so that from AWAIT_SOF
REQ_DATA runs R191, REQ_XFER_START R195 and R192, REQ_CONT and REQ_DISPATCH R192 (log entry 9). -/

namespace Sys2Proof.Machine

/-- A response frame in mode `mode`: the block makes no response in EXITED (R196), and elsewhere only in RESP_MODE (R174,
R176; log entry 10). DESIGN CHOICE (log entry 10): where more than one stop applies, the payload's length is asked first, then
EXITED, then the mode; the spec gives no order. -/
def sendResponse (k : Kind) (arg0 : U32) (payload : List Byte) (mode : Mode) (s : State) :
    Host.Outcome State Fault Refusal :=
  if payloadFits payload = false then .refused .payloadTooLong
  else if s.fsm = .exited then .fault .exited
  else if mode = s.respMode then .next (respond k arg0 payload s)
  else .refused .notInResponseMode

/-- RESP_ACK (R170, R174). -/
def execRespAck (arg0 : U32) (payload : List Byte) (mode : Mode) (s : State) : Host.Outcome State Fault Refusal :=
  sendResponse .ack arg0 payload mode s

/-- RESP_NACK (R170, R174). -/
def execRespNack (arg0 : U32) (payload : List Byte) (mode : Mode) (s : State) : Host.Outcome State Fault Refusal :=
  sendResponse .nack arg0 payload mode s

/-- REQ_DATA (R191). -/
def execReqData (f : Frame) (s : State) : Host.Outcome State Fault Refusal := .next (deliver (frameBytes f) s)

/-- REQ_XFER_START (R195). -/
def execReqXferStart (f : Frame) (s : State) : Host.Outcome State Fault Refusal := .next (deliver (frameBytes f) s)

/-- REQ_CONT (R196): the exit itself follows the dispatcher's response (R194). -/
def execReqCont (f : Frame) (s : State) : Host.Outcome State Fault Refusal := .next (deliver (frameBytes f) s)

/-- REQ_DISPATCH (R192). -/
def execReqDispatch (f : Frame) (s : State) : Host.Outcome State Fault Refusal := .next (deliver (frameBytes f) s)

/-- FRAME_GARBLED (R134): SOF and the 20 header bytes delivered. -/
def execFrameGarbled (hdr : Vector Byte 20) (s : State) : Host.Outcome State Fault Refusal :=
  .next (deliver (Config.sof :: hdr.toList) s)

/-- DELIM_HEX (R135): the delimiter `#` delivered; as the 20th byte of a header that R133 accepts it selects HEX
(log entry 11). -/
def execDelimHex (s : State) : Host.Outcome State Fault Refusal := .next (receive Config.delimHex s)

/-- DELIM_BIN (R135): the delimiter `%` delivered; as the 20th byte of a header that R133 accepts it selects BIN
(log entry 11). -/
def execDelimBin (s : State) : Host.Outcome State Fault Refusal := .next (receive Config.delimBin s)

end Sys2Proof.Machine
end

