-- ==== Sys2Proof/Machine/OtsFamily.lean ====
section
/-! DEFINITION. The OTP tag scanner's operations 0x20 to 0x22 (spec/44_otp_tags.md). -/

namespace Sys2Proof.Machine

/-- OTP_DECODE (R220). -/
def execOtpDecode (raw : Vector Byte 8) (s : State) : Host.Outcome State Fault Refusal :=
  .next (returned (.fields (otpDecode s.params.tagIdB7Bit raw)) s)

/-- OTP_GET (R222). -/
def execOtpGet (tag : U32) (base bufSize : Nat) (s : State) : Host.Outcome State Fault Refusal :=
  .next (otsReturn (otpGet tag base bufSize s) s)

/-- OTP_GET_VALUE (R226). -/
def execOtpGetValue (raw : Vector Byte 8) (offset base bufSize : Nat) (s : State) :
    Host.Outcome State Fault Refusal :=
  .next (otsReturn (otpGetValue raw offset base bufSize s) s)

end Sys2Proof.Machine
end

