-- ==== Sys2Proof/Machine/RecordFamily.lean ====
section
/-! DEFINITION. The record rows of spec/opcode_table.json: an OTP record of each size field, decoded as OTP_DECODE does
(spec/44_otp_tags.md R220) and returned with its value bytes (spec/30_encoding.md R80, R81; log entry 12). -/

namespace Sys2Proof.Machine

/-- A record's fields and value bytes go to the caller. -/
def decodeRow (size : BitVec 3) (r : RecordBody) (s : State) : Host.Outcome State Fault Refusal :=
  .next (returned (.record (otpDecode s.params.tagIdB7Bit (recordBytes size r)) (recordValue (recordBytes size r))) s)

/-- OTP_REC_INVALID_SIZE0: no value bytes (R81). -/
def execOtpRecInvalidSize0 (r : RecordBody) (s : State) : Host.Outcome State Fault Refusal := decodeRow 0#3 r s

/-- OTP_REC_SIZE1: value REC[0..0]. -/
def execOtpRecSize1 (r : RecordBody) (s : State) : Host.Outcome State Fault Refusal := decodeRow 1#3 r s

/-- OTP_REC_SIZE2: value REC[0..1]. -/
def execOtpRecSize2 (r : RecordBody) (s : State) : Host.Outcome State Fault Refusal := decodeRow 2#3 r s

/-- OTP_REC_SIZE3: value REC[0..2]. -/
def execOtpRecSize3 (r : RecordBody) (s : State) : Host.Outcome State Fault Refusal := decodeRow 3#3 r s

/-- OTP_REC_SIZE4: value REC[0..3]. -/
def execOtpRecSize4 (r : RecordBody) (s : State) : Host.Outcome State Fault Refusal := decodeRow 4#3 r s

/-- OTP_REC_SIZE5: value REC[0..4]. -/
def execOtpRecSize5 (r : RecordBody) (s : State) : Host.Outcome State Fault Refusal := decodeRow 5#3 r s

/-- OTP_REC_SIZE6: value REC[0..5]. -/
def execOtpRecSize6 (r : RecordBody) (s : State) : Host.Outcome State Fault Refusal := decodeRow 6#3 r s

/-- OTP_REC_INVALID_SIZE7: no value bytes (R81). -/
def execOtpRecInvalidSize7 (r : RecordBody) (s : State) : Host.Outcome State Fault Refusal := decodeRow 7#3 r s

end Sys2Proof.Machine
end

