-- ==== Sys2Proof/Machine/Dispatch.lean ====
section
/-! DEFINITION. The meaning of every instruction: one arm per constructor of Instr. -/

namespace Sys2Proof.Machine

def exec (i : Instr) (s : State) : Host.Outcome State Fault Refusal :=
  match i with
  -- operations 0x01 to 0x07: pure
  | .crc32c seed data => Sys2Proof.Machine.execCrc32c seed data s
  | .hex2nibble ch => Sys2Proof.Machine.execHex2nibble ch s
  | .atohex chars => Sys2Proof.Machine.execAtohex chars s
  | .hex2str v => Sys2Proof.Machine.execHex2str v s
  | .pairEncode b => Sys2Proof.Machine.execPairEncode b s
  | .pairDecode hi lo => Sys2Proof.Machine.execPairDecode hi lo s
  | .frameEncode cmd arg0 payload mode => Sys2Proof.Machine.execFrameEncode cmd arg0 payload mode s
  -- operations 0x10 to 0x12: engine
  | .rxByte b => Sys2Proof.Machine.execRxByte b s
  | .dispatchResponse k arg0 payload => Sys2Proof.Machine.execDispatchResponse k arg0 payload s
  | .reset => Sys2Proof.Machine.execReset s
  -- operations 0x20 to 0x22: OTS
  | .otpDecode raw => Sys2Proof.Machine.execOtpDecode raw s
  | .otpGet tag base bufSize => Sys2Proof.Machine.execOtpGet tag base bufSize s
  | .otpGetValue raw offset base bufSize => Sys2Proof.Machine.execOtpGetValue raw offset base bufSize s
  -- frames
  | .respAck arg0 payload mode => Sys2Proof.Machine.execRespAck arg0 payload mode s
  | .respNack arg0 payload mode => Sys2Proof.Machine.execRespNack arg0 payload mode s
  | .reqData f => Sys2Proof.Machine.execReqData f s
  | .reqXferStart f => Sys2Proof.Machine.execReqXferStart f s
  | .reqCont f => Sys2Proof.Machine.execReqCont f s
  | .reqDispatch f => Sys2Proof.Machine.execReqDispatch f s
  | .frameGarbled hdr => Sys2Proof.Machine.execFrameGarbled hdr s
  | .delimHex => Sys2Proof.Machine.execDelimHex s
  | .delimBin => Sys2Proof.Machine.execDelimBin s
  -- OTP records by size field
  | .otpRecInvalidSize0 r => Sys2Proof.Machine.execOtpRecInvalidSize0 r s
  | .otpRecSize1 r => Sys2Proof.Machine.execOtpRecSize1 r s
  | .otpRecSize2 r => Sys2Proof.Machine.execOtpRecSize2 r s
  | .otpRecSize3 r => Sys2Proof.Machine.execOtpRecSize3 r s
  | .otpRecSize4 r => Sys2Proof.Machine.execOtpRecSize4 r s
  | .otpRecSize5 r => Sys2Proof.Machine.execOtpRecSize5 r s
  | .otpRecSize6 r => Sys2Proof.Machine.execOtpRecSize6 r s
  | .otpRecInvalidSize7 r => Sys2Proof.Machine.execOtpRecInvalidSize7 r s

end Sys2Proof.Machine
end

