-- ==== Sys2Proof/Machine/Fetch.lean ====
section
/-! DEFINITION. What a step runs next: a RESET, else the outside agents' transactions in the order of the inbox, else the
engine's own step on a byte the transport holds (spec/00_scope.md R5, R13; log entries 5, 13 and 14). -/

namespace Sys2Proof.Machine

/-- Is the transaction a DISPATCH_RESPONSE, by its operation code 0x11? DESIGN CHOICE (log entry 24): its operands are not
looked at, so a response whose operands are undecodable or too long is passed over by `pick` like any other. -/
def isResponse (t : Transaction) : Bool := decide (t.format = .op) && decide (t.bytes.head? = some 0x11#8)

/-- Is the transaction a RESET? -/
def isReset (t : Transaction) : Bool := decide (t = encode .reset)

/-- A DISPATCH_RESPONSE outside DISPATCH_WAIT has no step (R194). -/
def hasNoStep (fsm : Fsm) (t : Transaction) : Bool := isResponse t && decide (fsm ≠ .dispatchWait)

/-- The transaction that is taken next, and the inbox after it. A RESET goes before everything that is pending (R269, R290),
and the responses handed in before it, which can only be for a request that was pending before it, have no step after it
(R290). Without a RESET the oldest transaction that has a step is taken; the responses ahead of it, whose turn has come
outside DISPATCH_WAIT, have none and do not wait for a later request (R194; log entry 13), whatever their operands are
(log entry 24). -/
def pick (fsm : Fsm) (inbox : List Transaction) : Option (Transaction × List Transaction) :=
  match inbox.dropWhile fun t => !isReset t with
  | r :: after => some (r, (inbox.takeWhile fun t => !isReset t).filter (fun t => !isResponse t) ++ after)
  | [] =>
    match inbox.dropWhile (hasNoStep fsm) with
    | [] => none
    | t :: rest => some (t, rest)

/-- The bytes that a transaction of the receive direction brings on the wire: those of a frame, of a delimiter, or of a header
behind its SOF. The other formats bring none (R14; log entry 22). -/
def wireBytes (t : Transaction) : Option (List Byte) :=
  match t.format with
  | .frameRx => some t.bytes
  | .delim => some t.bytes
  | .header => some (Config.sof :: t.bytes)
  | .op => none
  | .frameTx => none
  | .record => none

/-- What a step does. -/
inductive Fetched where
  /-- It runs an instruction, in the state without its transaction. -/
  | run (i : Instr) (s : State)
  /-- It delivers received bytes that are no row's word, in the state without their transaction. -/
  | wire (bs : List Byte) (s : State)
  /-- No transaction has a step: the engine goes on alone. -/
  | alone
  /-- It is not accepted. -/
  | refused (r : Refusal)
deriving DecidableEq, Repr

/-- The next thing to do. Command codes that are not pairwise distinct are refused (O7). Received bytes that are no row's word
are delivered all the same, because the receive side admits every byte sequence (R14, R130): what the engine makes of them is
R131 to R141's. Any other transaction that is no instruction is none of the block's operations (R84, R14), and is refused by
name (log entry 22). -/
def fetch (s : State) : Fetched :=
  if s.params.wf = false then .refused .badParameters
  else match pick s.fsm s.inbox with
    | none => .alone
    | some (t, rest) =>
      match decode s.params t with
      | .error e =>
        match wireBytes t with
        | some bs => .wire bs { s with inbox := rest }
        | none => .refused (.undecodable e)
      | .ok i => .run i { s with inbox := rest }

/-- Why nothing has a step. -/
def stuck (s : State) : Fault :=
  if s.inbox ≠ [] then .responseHasNoStep
  else match s.fsm with
    | .dispatchWait => .hangDispatch
    | .exited => .exited
    | .awaitSof => .hangRx
    | .readHeader => .hangRx
    | .readPayload => .hangRx
    | .readCrc => .hangRx

/-- The engine's step when no transaction has one: it takes the oldest byte the transport holds (R54, R142, R291);
without one there is no step at all (R267, R193, R196). What stood in the inbox were responses without a step, whose turn
is over. -/
def engineAlone (s : State) : Host.Outcome State Fault Refusal :=
  if takesByte s = true ∧ s.rx ≠ [] then .next (engineTake { s with inbox := [] }) else .fault (stuck s)

/-- The state with a transaction put where the next step looks first: at the front of the inbox, and with no RESET pending,
since that would go before it. -/
def place (t : Transaction) (s : State) : State := { s with inbox := t :: s.inbox.filter fun u => !isReset u }

end Sys2Proof.Machine
end

