-- ==== Sys2Proof/Machine/Step.lean ====
section
/-! DEFINITION. One step of the machine, and the placing of the host's word. -/

namespace Sys2Proof.Machine

/-- One step: a pending RESET, else the oldest transaction that has a step, else the engine on a byte the transport holds. A
transaction of received bytes is taken whatever its bytes are (R14). -/
def step (s : State) : Host.Outcome State Fault Refusal :=
  match fetch s with
  | .run i s' => exec i s'
  | .wire bs s' => .next (deliver bs s')
  | .alone => engineAlone s
  | .refused r => .refused r

/-- The state with the host's word as the transaction the next step looks at first (log entry 5). -/
def State.withFetchWord (s : State) (nbits w : Nat) : State := place (tableTransaction nbits w) s

end Sys2Proof.Machine
end

