-- ==== Sys2Proof/Safety.lean ====
section
/-! DEFINITION. What claims call a good state: the memories' canonical form, the ranges of the counters, the links between
STATE and the registers, and what the registers say of the bytes of the frame being received. -/

namespace Sys2Proof.Machine

/-- Every memory is in its canonical form. -/
structure State.MemoriesWf (s : State) : Prop where
  pbuf : Memory.wf s.pbuf = true
  otpImage : Memory.wf s.otpImage = true
  dest : Memory.wf s.dest = true
  caller : Memory.wf s.caller = true

/-- The register ranges of spec/10_state.md and the links between STATE and the registers. -/
structure State.Inv (s : State) : Prop where
  memories : s.MemoriesWf
  /-- R22: HIDX is 0..20; a header still being read is not full. -/
  hidx_le : s.hidx ≤ 20
  hidx_lt : s.fsm = .readHeader → s.hidx < 20
  /-- R27: TIDX is 0..8; a trailer still being read is not full. -/
  tidx_le : s.tidx ≤ 8
  tidx_lt : s.fsm = .readCrc → s.tidx < 8
  /-- R25, R138: PCNT is 0..REQ_LEN, and equal to it once the payload is complete. -/
  pcnt_lt : s.fsm = .readPayload → s.pcnt < s.reqLen.toNat
  pcnt_eq : s.fsm = .readCrc → s.pcnt = s.reqLen.toNat
  /-- R25: PHASE is used in HEX mode only, and only inside a payload. -/
  phase_zero : s.fsm = .readCrc ∨ (s.fsm = .readPayload ∧ s.reqMode = .bin) → s.phase = 0
  /-- R176: from an accepted header to its response, RESP_MODE is the frame's own mode. -/
  respMode_eq : s.fsm = .readPayload ∨ s.fsm = .readCrc ∨ s.fsm = .dispatchWait → s.respMode = s.reqMode
  /-- R30: PENDING holds a request exactly in DISPATCH_WAIT. -/
  pending_iff : s.pending.isSome = true ↔ s.fsm = .dispatchWait
  /-- R192, R143: the request's payload has exactly `len` bytes and fits PBUF, and its mode is RESP_MODE (R194). -/
  pending_payload : ∀ q, s.pending = some q →
    q.payload.length = q.len.toNat ∧ q.len.toNat ≤ s.params.payloadMax ∧ q.mode = s.respMode
  /-- R29: DATA_EXPECTED is never above DEST_SIZE. -/
  dataExpected_le : s.dataExpected ≤ s.params.destSize

/-- `w` is what has arrived of this frame's payload (R24, R25, R26): as many wire bytes as PCNT and PHASE say, folded into
CRC_ACC after the header, HOLD the odd one out, and PBUF the bytes they decode to as far as it reaches. -/
structure State.PayloadSoFar (s : State) (w : List Byte) : Prop where
  length : w.length = wireLen s.pcnt s.reqMode + s.phase.val
  crc : s.crcAcc = crc32c 0#32 (s.hdr.toList ++ w)
  hold : s.phase = 1 → w.getLast? = some s.hold
  buffer : ∀ i, i < s.pcnt → i < s.params.payloadMax →
    Memory.read s.pbuf i = (decodePayload (w.take (wireLen s.pcnt s.reqMode)) s.reqMode).getD i 0#8

/-- The request registers are the fields of an accepted header (R87, R133, R135). -/
structure State.HeaderAccepted (s : State) : Prop where
  ok : headerOk s.hdr = true
  cmd : s.reqCmd = headerCmd s.hdr
  arg0 : s.reqArg0 = headerArg0 s.hdr
  len : s.reqLen = headerLen s.hdr
  mode : s.reqMode = headerMode s.hdr

/-- What the registers say of the frame's bytes: while a payload or a trailer is read (R24), and of the request that waits
for the dispatcher (R143, the acceptance invariant): its header passed the structural check, its trailer is the CRC over
header and payload wire bytes, and PENDING is what those bytes decode to. -/
structure State.FrameInv (s : State) : Prop where
  reading : s.fsm = .readPayload ∨ s.fsm = .readCrc → s.HeaderAccepted ∧ ∃ w, s.PayloadSoFar w
  waiting : s.fsm = .dispatchWait → s.HeaderAccepted ∧ ∃ w,
    w.length = wireLen s.reqLen.toNat s.reqMode ∧
    atohex s.trl.toList = crc32c 0#32 (s.hdr.toList ++ w) ∧
    s.pending = some ⟨s.reqCmd, s.reqArg0, s.reqLen, decodePayload w s.reqMode, s.reqMode⟩

/-- The part of the state that is the engine's own registers (spec/10_state.md). -/
def sameEngine (s t : State) : Prop :=
  t.fsm = s.fsm ∧ t.hdr = s.hdr ∧ t.hidx = s.hidx ∧ t.reqCmd = s.reqCmd ∧ t.reqArg0 = s.reqArg0 ∧
  t.reqLen = s.reqLen ∧ t.reqMode = s.reqMode ∧ t.crcAcc = s.crcAcc ∧ t.pcnt = s.pcnt ∧ t.phase = s.phase ∧
  t.hold = s.hold ∧ t.pbuf = s.pbuf ∧ t.trl = s.trl ∧ t.tidx = s.tidx ∧ t.respMode = s.respMode ∧
  t.dataExpected = s.dataExpected ∧ t.pending = s.pending

/-- The engine waits for a SOF and the transport holds no byte. -/
def idle (s : State) : Prop := s.fsm = .awaitSof ∧ s.rx = []

/-- What no engine step touches: the parameters, the launch inputs, CALLER, what was returned, and the inbox (R5, R33,
R37, R62). -/
def sameSurroundings (s t : State) : Prop :=
  t.params = s.params ∧ t.otpImage = s.otpImage ∧ t.otpBad = s.otpBad ∧ t.caller = s.caller ∧
  t.returns = s.returns ∧ t.inbox = s.inbox

/-- What a complete frame leaves in the engine's registers, between its delivery in `s` and its decision (R22, R23, R24 to
R28, R135 to R139): PBUF holds the payload as far as it reaches (R26) and is otherwise as it was, and HOLD is written in HEX
mode only. DESIGN CHOICE (log entry 23): where `t` is no longer in DISPATCH_WAIT, what it says of REQ_CMD, REQ_ARG0, REQ_LEN and
REQ_MODE is the model's, which keeps the last header's values; R23 does not define them there. So is what it says of PBUF
past the payload (U3). -/
def frameRead (f : Frame) (s t : State) : Prop :=
  t.hdr.toList = frameHeader f ∧ t.hidx = 20 ∧ t.reqCmd = f.cmd ∧ t.reqArg0 = atohex f.arg0.toList ∧
  t.reqLen = atohex f.len.toList ∧ t.reqMode = f.mode ∧ t.respMode = f.mode ∧ t.crcAcc = frameCrc f ∧
  t.pcnt = frameLen f ∧ t.phase = 0 ∧ t.trl = f.crc ∧ t.tidx = 8 ∧ (f.mode = .bin → t.hold = s.hold) ∧
  (∀ i, Memory.read t.pbuf i =
    if i < frameLen f ∧ i < s.params.payloadMax then (framePayload f).getD i 0#8 else Memory.read s.pbuf i)

/-- The transmit events of one response: the frame's bytes in order, then one flush (R174, R175). -/
def sent (k : Kind) (a : U32) (p : List Byte) (m : Mode) : List TxEvent :=
  (frameEncode (kindCmd k) a p m).map TxEvent.byte ++ [TxEvent.flush]

/-- Bytes fed to the engine, one RX_BYTE at a time (R86 `REQUEST`), stopping where RX_BYTE does not answer a next state. -/
def feed (bs : List Byte) (s : State) : Host.Outcome State Fault Refusal :=
  match bs with
  | [] => .next s
  | b :: rest =>
    match exec (.rxByte b) s with
    | .next s' => feed rest s'
    | .fault r => .fault r
    | .refused r => .refused r

/-- The operations of the caller: the pure ones, and the OTS's. -/
def isCallerOp (i : Instr) : Bool :=
  match i with
  | .crc32c _ _ | .hex2nibble _ | .atohex _ | .hex2str _ | .pairEncode _ | .pairDecode _ _ | .frameEncode _ _ _ _ => true
  | .otpDecode _ | .otpGet _ _ _ | .otpGetValue _ _ _ _ => true
  | .otpRecInvalidSize0 _ | .otpRecSize1 _ | .otpRecSize2 _ | .otpRecSize3 _ => true
  | .otpRecSize4 _ | .otpRecSize5 _ | .otpRecSize6 _ | .otpRecInvalidSize7 _ => true
  | .rxByte _ | .dispatchResponse _ _ _ | .reset | .respAck _ _ _ | .respNack _ _ _ => false
  | .reqData _ | .reqXferStart _ | .reqCont _ | .reqDispatch _ | .frameGarbled _ | .delimHex | .delimBin => false

/-- OTP_GET's scan comes to offset `off`, by the rules: it starts at TAG_START; an invalid record is passed over and its
cont bit not followed (R223); a valid record of another tag is passed over, and if its cont bit is set the next record is
one to skip (R225); a skipped record is followed by another to skip exactly when its own cont bit is set (R225). -/
inductive ScanReaches (s : State) (tag : U32) : Nat → Bool → Prop where
  | start : ScanReaches s tag Config.tagStart false
  | invalid {off : Nat} {raw : Vector Byte 8} (h : ScanReaches s tag off false) (hoff : off < Config.tagEnd)
      (hread : otpRead s off = some raw) (hv : recordValid raw = false) : ScanReaches s tag (off + 8) false
  | other {off : Nat} {raw : Vector Byte 8} (h : ScanReaches s tag off false) (hoff : off < Config.tagEnd)
      (hread : otpRead s off = some raw) (hv : recordValid raw = true)
      (ht : (recordTag s.params.tagIdB7Bit raw).setWidth 32 ≠ tag) : ScanReaches s tag (off + 8) (recordCont raw)
  | skipped {off : Nat} {raw : Vector Byte 8} (h : ScanReaches s tag off true) (hoff : off < Config.tagEnd)
      (hread : otpRead s off = some raw) : ScanReaches s tag (off + 8) (recordCont raw)

/-- `rest` are the records that follow `raw`, at offset `off`, in its chain: each follows a record with cont set, 8 bytes
further inside the region, and is readable and valid (R82, R228). -/
def followsInChain (s : State) (off : Nat) (raw : Vector Byte 8) (rest : List (Vector Byte 8)) : Prop :=
  match rest with
  | [] => True
  | next :: more =>
    recordCont raw = true ∧ off + 8 < Config.tagEnd ∧ otpRead s (off + 8) = some next ∧ recordValid next = true ∧
      followsInChain s (off + 8) next more

/-- The value that the records of a chain hold: the concatenation of each record's first `size` bytes (R82, R227). -/
def chainValue (raws : List (Vector Byte 8)) : List Byte := raws.flatMap recordValue

end Sys2Proof.Machine
end

