-- ==== Sys2Proof/Certificates/Slice0/Obligations.lean ====
section
/-! DEFINITION. The statements for the provers. Each docstring names the rules of spec/ it formalises, or says whose choice
a clause rests on. Where a statement gives the whole next state, or what `frameRead` says, of an engine in AWAIT_SOF,
READ_HEADER or EXITED, the values of REQ_CMD, REQ_ARG0, REQ_LEN and REQ_MODE in it are the model's choice (R23 does not define
them there; log entry 23). -/

open Sys2Proof
open Sys2Proof.Machine

/-! ### CRC32C and the hex codec (spec/40_crc_hex.md) -/

/-- R102: the CRC of a concatenation is the CRC of the second part seeded with the CRC of the first, as CRC32C returns it. -/
def Obligations.CrcOfConcatenationIsSeeded : Prop :=
  ∀ (seed : U32) (a b : List Byte) (s : State),
    exec (.crc32c seed (a ++ b)) s
      = .next { s with returns := s.returns ++ [.u32 (crc32c (crc32c seed a) b)] }

/-- R100: CRC32C returns to the caller the value of the pseudocode, and changes nothing else: the empty sequence gives the
seed; each byte enters at bit 0 and is shifted out by 8 turns with the reflected polynomial, between the two complements;
and the rule's example. -/
def Obligations.CrcFollowsBitwisePseudocode : Prop :=
  (∀ (seed : U32) (data : List Byte) (s : State),
    exec (.crc32c seed data) s = .next { s with returns := s.returns ++ [.u32 (crc32c seed data)] }) ∧
  (∀ seed : U32, crc32c seed [] = seed) ∧
  (∀ (seed : U32) (data : List Byte) (b : Byte),
    crc32c seed (data ++ [b])
      = ~~~ ((fun c : U32 => if c.getLsbD 0 then (c >>> 1) ^^^ 0x82F63B78#32 else c >>> 1)^[8]
          (~~~ (crc32c seed data) ^^^ b.setWidth 32))) ∧
  crc32c 0#32 [0x31#8, 0x32#8, 0x33#8, 0x34#8, 0x35#8, 0x36#8, 0x37#8, 0x38#8, 0x39#8] = 0xE3069283#32

/-- R103: HEX2NIBBLE by the three ranges of digits; every other byte gives 0xFFFFFFFF. -/
def Obligations.HexDigitValueByRange : Prop :=
  ∀ (ch : Byte) (s : State), ∃ v : U32,
    exec (.hex2nibble ch) s = .next { s with returns := s.returns ++ [.u32 v] } ∧
    (if 0x30 ≤ ch.toNat ∧ ch.toNat ≤ 0x39 then v.toNat = ch.toNat - 0x30
     else if 0x61 ≤ ch.toNat ∧ ch.toNat ≤ 0x66 then v.toNat = ch.toNat - 0x61 + 10
     else if 0x41 ≤ ch.toNat ∧ ch.toNat ≤ 0x46 then v.toNat = ch.toNat - 0x41 + 10
     else v = 0xFFFFFFFF#32)

/-- R104: ATOHEX shifts and ORs character by character; the empty sequence gives 0; an invalid character makes the value
0xFFFFFFFF at its step, and in an 8-character field leaves every bit above the later characters one, and below them what the
later characters alone give; decoding is case-insensitive. -/
def Obligations.AtohexShiftsAndOrs : Prop :=
  (∀ (chars : List Byte) (s : State),
    exec (.atohex chars) s = .next { s with returns := s.returns ++ [.u32 (atohex chars)] }) ∧
  atohex [] = 0#32 ∧
  (∀ (chars : List Byte) (c : Byte), atohex (chars ++ [c]) = (atohex chars <<< 4) ||| hex2nibble c) ∧
  (∀ (before : List Byte) (c : Byte), hex2nibble c = 0xFFFFFFFF#32 → atohex (before ++ [c]) = 0xFFFFFFFF#32) ∧
  (∀ (before after : List Byte) (c : Byte) (i : Nat), before.length + 1 + after.length = 8 →
    hex2nibble c = 0xFFFFFFFF#32 → i < 32 →
    (atohex (before ++ c :: after)).getLsbD i
      = if 4 * after.length ≤ i then true else (atohex after).getLsbD i) ∧
  (∀ chars : List Byte, atohex (chars.map fun c => if 0x61#8 ≤ c ∧ c ≤ 0x66#8 then c - 0x20#8 else c) = atohex chars)

/-- R106, R105: HEX2STR's character k is the uppercase digit of bits 31-4k .. 28-4k. -/
def Obligations.HexStringHasUppercaseDigits : Prop :=
  ∀ (v : U32) (s : State), ∃ out : List Byte,
    exec (.hex2str v) s = .next { s with returns := s.returns ++ [.bytes out] } ∧ out.length = 8 ∧
    ∀ k, k < 8 → out[k]? =
      [0x30#8, 0x31#8, 0x32#8, 0x33#8, 0x34#8, 0x35#8, 0x36#8, 0x37#8, 0x38#8, 0x39#8,
        0x41#8, 0x42#8, 0x43#8, 0x44#8, 0x45#8, 0x46#8][v.toNat / 16 ^ (7 - k) % 16]?

/-- R109: the two round trips, as the operations return them. In the reverse direction an 8-character field comes back as it
was only if it is all uppercase hex digits, and a field of hex digits comes back in uppercase. -/
def Obligations.HexRoundTrips : Prop :=
  (∀ (v : U32) (s : State),
    exec (.hex2str v) s = .next { s with returns := s.returns ++ [.bytes (hex2str v)] } ∧
    exec (.atohex (hex2str v)) s = .next { s with returns := s.returns ++ [.u32 v] }) ∧
  (∀ (b : Byte) (s : State), ∃ hi lo : Byte,
    exec (.pairEncode b) s = .next { s with returns := s.returns ++ [.bytes [hi, lo]] } ∧
    exec (.pairDecode hi lo) s = .next { s with returns := s.returns ++ [.u8 b] }) ∧
  (∀ chars : List Byte, hex2str (atohex chars) = chars →
    chars.length = 8 ∧
    ∀ c ∈ chars, (0x30 ≤ c.toNat ∧ c.toNat ≤ 0x39) ∨ (0x41 ≤ c.toNat ∧ c.toNat ≤ 0x46)) ∧
  (∀ chars : List Byte, chars.length = 8 → (∀ c ∈ chars, hex2nibble c ≠ 0xFFFFFFFF#32) →
    hex2str (atohex chars) = chars.map fun c => if 0x61#8 ≤ c ∧ c ≤ 0x66#8 then c - 0x20#8 else c)

/-- R107: PAIR_ENCODE gives the uppercase digit of the high nibble and then that of the low nibble. -/
def Obligations.PairEncodeHighNibbleFirst : Prop :=
  ∀ (b : Byte) (s : State), ∃ hi lo : Byte,
    exec (.pairEncode b) s = .next { s with returns := s.returns ++ [.bytes [hi, lo]] } ∧
    some hi = [0x30#8, 0x31#8, 0x32#8, 0x33#8, 0x34#8, 0x35#8, 0x36#8, 0x37#8, 0x38#8, 0x39#8,
      0x41#8, 0x42#8, 0x43#8, 0x44#8, 0x45#8, 0x46#8][b.toNat / 16]? ∧
    some lo = [0x30#8, 0x31#8, 0x32#8, 0x33#8, 0x34#8, 0x35#8, 0x36#8, 0x37#8, 0x38#8, 0x39#8,
      0x41#8, 0x42#8, 0x43#8, 0x44#8, 0x45#8, 0x46#8][b.toNat % 16]?

/-- R108: PAIR_DECODE of two digits, and its two corner cases on characters that are no digits. -/
def Obligations.PairDecodeOnAnyCharacters : Prop :=
  ∀ (hi lo : Byte) (s : State), ∃ v : Byte,
    exec (.pairDecode hi lo) s = .next { s with returns := s.returns ++ [.u8 v] } ∧
    v = (atohex [hi, lo]).setWidth 8 ∧
    (if hex2nibble lo = 0xFFFFFFFF#32 then v = 0xFF#8
     else if hex2nibble hi = 0xFFFFFFFF#32 then v.toNat = 0xF0 + (hex2nibble lo).toNat
     else v.toNat = 16 * (hex2nibble hi).toNat + (hex2nibble lo).toNat)

/-! ### Frames sent (spec/42_frame_tx.md) -/

/-- R171, R172, R173: FRAME_ENCODE returns SOF, the 20-byte header, the payload's wire bytes and the hex CRC of header and
wire bytes, and changes nothing else; R75: the frame's length. -/
def Obligations.FrameEncodeLayout : Prop :=
  ∀ (c : Byte) (a : U32) (p : List Byte) (m : Mode) (s : State), p.length < 2 ^ 32 →
    ∃ header wire : List Byte,
      header = [c, 0x2C#8] ++ hex2str a ++ [0x2C#8] ++ hex2str (BitVec.ofNat 32 p.length)
        ++ [if m = .hex then 0x23#8 else 0x25#8] ∧
      header.length = 20 ∧
      wire = (if m = .hex then p.flatMap pairEncode else p) ∧
      wire.length = (if m = .hex then 2 * p.length else p.length) ∧
      exec (.frameEncode c a p m) s
        = .next { s with returns := s.returns ++
            [.bytes ([0x3E#8] ++ header ++ wire ++ hex2str (crc32c 0#32 (header ++ wire)))] } ∧
      (frameEncode c a p m).length = (if m = .hex then 29 + 2 * p.length else 29 + p.length)

/-- R173 and R193 (spec/93_implementation_defined.md O1, O2): a payload of 2^32 bytes or more is refused, by FRAME_ENCODE,
by DISPATCH_RESPONSE and by the response rows. That DISPATCH_RESPONSE is refused outside DISPATCH_WAIT too, where R194 gives it
no step, is the model's choice of which to ask first (log entry 24); so is that a response row is refused for its payload in
EXITED and in the other mode too (log entry 10). -/
def Obligations.PayloadBeyondLengthFieldIsRefused : Prop :=
  ∀ (c : Byte) (k : Kind) (a : U32) (p : List Byte) (m : Mode) (s : State), 2 ^ 32 ≤ p.length →
    exec (.frameEncode c a p m) s = .refused .payloadTooLong ∧
    exec (.dispatchResponse k a p) s = .refused .payloadTooLong ∧
    exec (.respAck a p m) s = .refused .payloadTooLong ∧
    exec (.respNack a p m) s = .refused .payloadTooLong

/-- The model's choice (log entry 10): a response row in RESP_MODE sends in every state but EXITED, although R177 and R194 give
the only moments of a response. What it sends is R174's: the whole frame in RESP_MODE with command byte `A` or `N` (R170), and
one flush (R175); no register changes. -/
def Obligations.ResponseFrameIsSentWithOneFlush : Prop :=
  ∀ (a : U32) (p : List Byte) (s : State), p.length < 2 ^ 32 → s.fsm ≠ .exited →
    exec (.respAck a p s.respMode) s
      = .next { s with tx := s.tx ++ (frameEncode 0x41#8 a p s.respMode).map TxEvent.byte ++ [.flush] } ∧
    exec (.respNack a p s.respMode) s
      = .next { s with tx := s.tx ++ (frameEncode 0x4E#8 a p s.respMode).map TxEvent.byte ++ [.flush] }

/-- R196 (no response in EXITED) and R176, as the model reads them of a response row (log entry 10): in EXITED it stops, and
elsewhere a row in the other mode is refused. That EXITED is asked before the mode is the model's choice (log entry 10). -/
def Obligations.ResponseRowStopsWhereNoneIsSent : Prop :=
  ∀ (a : U32) (p : List Byte) (s : State) (m : Mode), p.length < 2 ^ 32 →
    (s.fsm = .exited → exec (.respAck a p m) s = .fault .exited ∧ exec (.respNack a p m) s = .fault .exited) ∧
    (s.fsm ≠ .exited → m ≠ s.respMode →
      exec (.respAck a p m) s = .refused .notInResponseMode ∧ exec (.respNack a p m) s = .refused .notInResponseMode)

/-- R177: the reason strings are the ASCII bytes of the quoted strings, with the `len` fields the table gives. -/
def Obligations.ReasonStringsAreAscii : Prop :=
  reasonGarbled = "garbled command".toList.map (fun c => BitVec.ofNat 8 c.toNat) ∧ reasonGarbled.length = 0x0F ∧
  reasonCrc = "CRC failure".toList.map (fun c => BitVec.ofNat 8 c.toNat) ∧ reasonCrc.length = 0x0B ∧
  reasonTooMuch = "too much data".toList.map (fun c => BitVec.ofNat 8 c.toNat) ∧ reasonTooMuch.length = 0x0D ∧
  reasonMisordering = "data misordering".toList.map (fun c => BitVec.ofNat 8 c.toNat) ∧ reasonMisordering.length = 0x10

/-! ### Frames received, byte by byte (spec/41_frame_rx.md) -/

/-- R131: in AWAIT_SOF a byte is discarded, or is the SOF. -/
def Obligations.SofStartsAHeader : Prop :=
  ∀ (b : Byte) (s : State), s.fsm = .awaitSof → s.rx = [] →
    exec (.rxByte b) s = .next (if b = 0x3E#8 then { s with hidx := 0, fsm := .readHeader } else s)

/-- R132: a header byte before the 20th is stored, whatever its value, and nothing else changes. -/
def Obligations.HeaderByteIsStored : Prop :=
  ∀ (b : Byte) (s : State), s.fsm = .readHeader → s.rx = [] → s.hidx < 19 →
    exec (.rxByte b) s = .next { s with hdr := s.hdr.setIfInBounds s.hidx b, hidx := s.hidx + 1 }

/-- R133, R135: the 20th header byte, a legal delimiter between legal separators, accepts the header. -/
def Obligations.TwentiethByteAcceptsHeader : Prop :=
  ∀ (b : Byte) (s : State), s.fsm = .readHeader → s.rx = [] → s.hidx = 19 →
    s.hdr[1] = 0x2C#8 → s.hdr[10] = 0x2C#8 → b = 0x23#8 ∨ b = 0x25#8 →
    let hdr := s.hdr.setIfInBounds 19 b
    let mode : Mode := if b = 0x23#8 then .hex else .bin
    let len := atohex ((hdr.toList.drop 11).take 8)
    exec (.rxByte b) s = .next { s with
      hdr := hdr
      hidx := 20
      reqCmd := s.hdr[0]
      reqArg0 := atohex ((hdr.toList.drop 2).take 8)
      reqLen := len
      reqMode := mode
      respMode := mode
      crcAcc := crc32c 0#32 hdr.toList
      pcnt := 0
      phase := 0
      tidx := 0
      fsm := if len = 0#32 then .readCrc else .readPayload }

/-- R133, R134: the 20th header byte of a header with a wrong separator or delimiter ends the frame: with NACK_ON_GARBLED a
NACK "garbled command" in RESP_MODE and a flush, else nothing; STATE becomes AWAIT_SOF and no other register changes. -/
def Obligations.TwentiethByteOfGarbledHeader : Prop :=
  ∀ (b : Byte) (s : State), s.fsm = .readHeader → s.rx = [] → s.hidx = 19 →
    s.hdr[1] ≠ 0x2C#8 ∨ s.hdr[10] ≠ 0x2C#8 ∨ (b ≠ 0x23#8 ∧ b ≠ 0x25#8) →
    exec (.rxByte b) s = .next { s with
      hdr := s.hdr.setIfInBounds 19 b
      hidx := 20
      fsm := .awaitSof
      tx := if s.params.nackOnGarbled then s.tx ++ sent .nack 0#32 reasonGarbled s.respMode else s.tx }

/-- R135: the delimiter rows: `#` as the 20th byte of a header with legal separators selects HEX, `%` BIN, for the request
and for every response after it. -/
def Obligations.DelimiterSelectsTheMode : Prop :=
  ∀ s : State, s.fsm = .readHeader → s.rx = [] → s.hidx = 19 → s.hdr[1] = 0x2C#8 → s.hdr[10] = 0x2C#8 →
    ∃ t u : State,
      exec .delimHex s = .next t ∧ exec .delimBin s = .next u ∧
      t.reqMode = .hex ∧ t.respMode = .hex ∧ u.reqMode = .bin ∧ u.respMode = .bin ∧
      t.hdr = s.hdr.setIfInBounds 19 0x23#8 ∧ u.hdr = s.hdr.setIfInBounds 19 0x25#8 ∧
      t.crcAcc = crc32c 0#32 t.hdr.toList ∧ u.crcAcc = crc32c 0#32 u.hdr.toList ∧
      t.reqCmd = s.hdr[0] ∧ u.reqCmd = s.hdr[0] ∧ t.reqLen = headerLen t.hdr ∧ u.reqLen = headerLen u.hdr ∧
      t.reqArg0 = headerArg0 t.hdr ∧ u.reqArg0 = headerArg0 u.hdr ∧
      t.fsm = (if t.reqLen = 0#32 then .readCrc else .readPayload) ∧
      u.fsm = (if u.reqLen = 0#32 then .readCrc else .readPayload) ∧
      t.hidx = 20 ∧ u.hidx = 20 ∧ t.pcnt = 0 ∧ u.pcnt = 0 ∧ t.phase = 0 ∧ u.phase = 0 ∧ t.tidx = 0 ∧ u.tidx = 0 ∧
      t.hold = s.hold ∧ u.hold = s.hold ∧ t.pbuf = s.pbuf ∧ u.pbuf = s.pbuf ∧ t.trl = s.trl ∧ u.trl = s.trl ∧
      t.dataExpected = s.dataExpected ∧ u.dataExpected = s.dataExpected ∧ t.pending = s.pending ∧ u.pending = s.pending ∧
      t.dest = s.dest ∧ u.dest = s.dest ∧ t.tx = s.tx ∧ u.tx = s.tx ∧ t.rx = [] ∧ u.rx = [] ∧
      sameSurroundings s t ∧ sameSurroundings s u

/-- R136, R138: a BIN payload byte is folded into the CRC, stored if it fits, and counted; the last one ends the payload. -/
def Obligations.BinaryPayloadByte : Prop :=
  ∀ (b : Byte) (s : State), s.fsm = .readPayload → s.reqMode = .bin → s.rx = [] →
    let last := s.pcnt + 1 = s.reqLen.toNat
    exec (.rxByte b) s = .next { s with
      crcAcc := crc32c s.crcAcc [b]
      pbuf := if s.pcnt < s.params.payloadMax then Memory.write s.pbuf s.pcnt b else s.pbuf
      pcnt := s.pcnt + 1
      tidx := if last then 0 else s.tidx
      fsm := if last then .readCrc else .readPayload }

/-- R137, R138: a HEX payload character is folded into the CRC as it stands; the first of a pair is held; the second completes
a byte, which is stored if it fits, and counted; the last one ends the payload. -/
def Obligations.HexPayloadCharacter : Prop :=
  ∀ (b : Byte) (s : State), s.fsm = .readPayload → s.reqMode = .hex → s.rx = [] →
    (s.phase = 0 →
      exec (.rxByte b) s = .next { s with crcAcc := crc32c s.crcAcc [b], hold := b, phase := 1 }) ∧
    (s.phase = 1 →
      let last := s.pcnt + 1 = s.reqLen.toNat
      exec (.rxByte b) s = .next { s with
        crcAcc := crc32c s.crcAcc [b]
        pbuf := if s.pcnt < s.params.payloadMax then Memory.write s.pbuf s.pcnt (pairDecode s.hold b) else s.pbuf
        pcnt := s.pcnt + 1
        phase := 0
        tidx := if last then 0 else s.tidx
        fsm := if last then .readCrc else .readPayload })

/-- R139: a trailer character before the 8th is stored, not folded into the CRC, and nothing else changes. -/
def Obligations.TrailerCharacterIsStored : Prop :=
  ∀ (b : Byte) (s : State), s.fsm = .readCrc → s.rx = [] → s.tidx < 7 →
    exec (.rxByte b) s = .next { s with trl := s.trl.setIfInBounds s.tidx b, tidx := s.tidx + 1 }

/-- R139 to R141, R190 to R192, R195, R269: the 8th trailer character decides the frame, in this order: CRC, engine buffer,
and for a data chunk offset and destination capacity; else transfer start and dispatch. -/
def Obligations.EighthTrailerCharacterDecides : Prop :=
  ∀ (b : Byte) (s : State), s.fsm = .readCrc → s.rx = [] → s.tidx = 7 →
    let trl := s.trl.setIfInBounds 7 b
    let payload := Memory.readBytes s.pbuf 0 s.reqLen.toNat
    let u : State := { s with trl := trl, tidx := 8, fsm := .awaitSof }
    exec (.rxByte b) s = .next (
      if atohex trl.toList ≠ s.crcAcc then { u with tx := s.tx ++ sent .nack 0#32 reasonCrc s.respMode }
      else if s.params.payloadMax < s.reqLen.toNat then
        { u with tx := s.tx ++ sent .nack 0#32 reasonTooMuch s.respMode }
      else if s.params.cmdData = some s.reqCmd then
        if s.reqArg0.toNat ≠ s.dataExpected then
          { u with tx := s.tx ++ sent .nack 0#32 reasonMisordering s.respMode }
        else if s.params.destSize < s.dataExpected + s.reqLen.toNat then
          { u with tx := s.tx ++ sent .nack 0#32 reasonTooMuch s.respMode }
        else
          { u with
            dest := Memory.writeBytes s.dest s.dataExpected payload
            dataExpected := s.dataExpected + s.reqLen.toNat
            tx := s.tx ++ sent .ack 0#32 [] s.respMode }
      else
        { u with
          dataExpected := if s.params.cmdXferStart = some s.reqCmd then 0 else s.dataExpected
          pending := some ⟨s.reqCmd, s.reqArg0, s.reqLen, payload, s.reqMode⟩
          fsm := .dispatchWait })

/-- R142: in DISPATCH_WAIT and EXITED no byte is taken: the bytes of RX_BYTE, of a delimiter, of a garbled header and of a
request frame all stay in the transport's queue, behind those already there, and nothing else changes. -/
def Obligations.WaitingEngineTakesNoByte : Prop :=
  ∀ (b : Byte) (f : Frame) (hdr : Vector Byte 20) (s : State), s.fsm = .dispatchWait ∨ s.fsm = .exited →
    exec (.rxByte b) s = .next { s with rx := s.rx ++ [b] } ∧
    exec .delimHex s = .next { s with rx := s.rx ++ [0x23#8] } ∧
    exec .delimBin s = .next { s with rx := s.rx ++ [0x25#8] } ∧
    exec (.frameGarbled hdr) s = .next { s with rx := s.rx ++ 0x3E#8 :: hdr.toList } ∧
    exec (.reqData f) s = .next { s with rx := s.rx ++ frameBytes f } ∧
    exec (.reqXferStart f) s = .next { s with rx := s.rx ++ frameBytes f } ∧
    exec (.reqCont f) s = .next { s with rx := s.rx ++ frameBytes f } ∧
    exec (.reqDispatch f) s = .next { s with rx := s.rx ++ frameBytes f }

/-- R14, R130: the decoder is total: every byte sequence is taken, from every state, one RX_BYTE at a time, and what is fed in
two parts is fed as one. A frame row, a garbled header and a delimiter are their bytes fed so, from every state (log entries 9
and 11). No received byte is refused: when a step takes a transaction of received bytes, they are fed so whatever they are, a
row's word or none (log entry 22). -/
def Obligations.EveryByteSequenceIsTaken : Prop :=
  (∀ (xs ys : List Byte) (s : State), ∃ t u : State,
    feed xs s = .next t ∧ feed ys t = .next u ∧ feed (xs ++ ys) s = .next u) ∧
  (∀ (f : Frame) (hdr : Vector Byte 20) (s : State),
    exec (.reqData f) s = feed (frameBytes f) s ∧ exec (.reqXferStart f) s = feed (frameBytes f) s ∧
    exec (.reqCont f) s = feed (frameBytes f) s ∧ exec (.reqDispatch f) s = feed (frameBytes f) s ∧
    exec (.frameGarbled hdr) s = feed (0x3E#8 :: hdr.toList) s ∧
    exec .delimHex s = feed [0x23#8] s ∧ exec .delimBin s = feed [0x25#8] s) ∧
  (∀ (s : State) (t : Transaction) (others : List Transaction), s.params.wf = true →
    pick s.fsm s.inbox = some (t, others) →
    (t.format = .frameRx ∨ t.format = .delim → step s = feed t.bytes { s with inbox := others }) ∧
    (t.format = .header → step s = feed (0x3E#8 :: t.bytes) { s with inbox := others }))

/-- R54, R130: with bytes already queued, RX_BYTE takes the oldest of them, as it would be taken with nothing queued, and the
delivered byte joins the queue behind the others (log entry 8). -/
def Obligations.QueuedBytesAreTakenFirst : Prop :=
  ∀ (b c : Byte) (rest : List Byte) (s : State), s.fsm ≠ .dispatchWait → s.fsm ≠ .exited → s.rx = c :: rest →
    ∃ t : State, exec (.rxByte c) { s with rx := [] } = .next t ∧ exec (.rxByte b) s = .next { t with rx := rest ++ [b] }

/-! ### Whole frames (spec/42_frame_tx.md, spec/43_dispatch_data.md) -/

/-- R173, R192: a request made by FRAME_ENCODE and fed byte by byte to an idle engine is dispatched with exactly the fields
and payload it was made from, in either mode, when its command byte is none of the three the block interprets. -/
def Obligations.EncodedRequestIsDispatchedWithItsFields : Prop :=
  ∀ (c : Byte) (a : U32) (p : List Byte) (m : Mode) (s : State),
    idle s → Memory.wf s.pbuf = true → p.length < 2 ^ 32 → p.length ≤ s.params.payloadMax →
    s.params.cmdData ≠ some c → s.params.cmdXferStart ≠ some c → s.params.cmdCont ≠ some c →
    ∃ t : State, feed (frameEncode c a p m) s = .next t ∧
      t.fsm = .dispatchWait ∧ t.pending = some ⟨c, a, BitVec.ofNat 32 p.length, p, m⟩ ∧ t.respMode = m ∧
      t.dataExpected = s.dataExpected ∧ t.dest = s.dest ∧ t.tx = s.tx ∧ t.rx = [] ∧ sameSurroundings s t

/-- R191, R52: a complete data frame at the expected offset that fits both buffers is stored in DEST, moves DATA_EXPECTED past
it and is answered ACK-empty in its own mode; every other byte of DEST is as before. The REQ_ registers after it, in AWAIT_SOF,
are the model's choice (R23; log entry 23). -/
def Obligations.DataFrameInOrderIsStored : Prop :=
  ∀ (f : Frame) (s : State), idle s → f.wf = true → s.params.cmdData = some f.cmd →
    Memory.wf s.pbuf = true → Memory.wf s.dest = true →
    frameLen f ≤ s.params.payloadMax → (atohex f.arg0.toList).toNat = s.dataExpected →
    s.dataExpected + frameLen f ≤ s.params.destSize →
    ∃ t : State, exec (.reqData f) s = .next t ∧
      t.fsm = .awaitSof ∧ t.dataExpected = s.dataExpected + frameLen f ∧
      t.tx = s.tx ++ sent .ack 0#32 [] f.mode ∧ t.rx = [] ∧ t.pending = s.pending ∧
      frameRead f s t ∧ sameSurroundings s t ∧
      (∀ i, i < frameLen f → Memory.read t.dest (s.dataExpected + i) = (framePayload f).getD i 0#8) ∧
      (∀ a, a < s.dataExpected ∨ s.dataExpected + frameLen f ≤ a → Memory.read t.dest a = Memory.read s.dest a)

/-- R141, R191, R198, R269: a complete data frame that is too long for PBUF, out of order, or too long for DEST is answered
with that one NACK in its own mode, in that order of the checks; DEST and DATA_EXPECTED do not change.
The REQ_ registers after it, in AWAIT_SOF, are the model's choice (R23; log entry 23). -/
def Obligations.RefusedDataFrameChangesNoData : Prop :=
  ∀ (f : Frame) (s : State), idle s → f.wf = true → s.params.cmdData = some f.cmd → Memory.wf s.pbuf = true →
    s.params.payloadMax < frameLen f ∨ (atohex f.arg0.toList).toNat ≠ s.dataExpected ∨
      s.params.destSize < s.dataExpected + frameLen f →
    ∃ t : State, exec (.reqData f) s = .next t ∧
      t.fsm = .awaitSof ∧ t.dataExpected = s.dataExpected ∧ t.dest = s.dest ∧ t.rx = [] ∧ t.pending = s.pending ∧
      t.tx = s.tx ++ sent .nack 0#32
        (if s.params.payloadMax < frameLen f then reasonTooMuch
         else if (atohex f.arg0.toList).toNat ≠ s.dataExpected then reasonMisordering else reasonTooMuch) f.mode ∧
      frameRead f s t ∧ sameSurroundings s t

/-- R195, R192: a complete transfer-start frame sets DATA_EXPECTED to 0 and is dispatched. -/
def Obligations.TransferStartRestartsTheOffset : Prop :=
  ∀ (f : Frame) (s : State), idle s → f.wf = true → Memory.wf s.pbuf = true →
    s.params.cmdData ≠ some f.cmd → s.params.cmdXferStart = some f.cmd → frameLen f ≤ s.params.payloadMax →
    ∃ t : State, exec (.reqXferStart f) s = .next t ∧
      t.fsm = .dispatchWait ∧ t.dataExpected = 0 ∧ t.dest = s.dest ∧ t.tx = s.tx ∧ t.rx = [] ∧
      t.pending = some ⟨f.cmd, atohex f.arg0.toList, atohex f.len.toList, framePayload f, f.mode⟩ ∧
      frameRead f s t ∧ sameSurroundings s t

/-- R192: any other complete frame is dispatched with its fields and its decoded payload, in both modes, whatever its command
byte (D33); nothing is sent, and DEST and DATA_EXPECTED do not change. -/
def Obligations.OtherFrameIsDispatched : Prop :=
  ∀ (f : Frame) (s : State), idle s → f.wf = true → Memory.wf s.pbuf = true →
    s.params.cmdData ≠ some f.cmd → s.params.cmdXferStart ≠ some f.cmd → frameLen f ≤ s.params.payloadMax →
    ∃ t : State, exec (.reqDispatch f) s = .next t ∧
      t.fsm = .dispatchWait ∧ t.dataExpected = s.dataExpected ∧ t.dest = s.dest ∧ t.tx = s.tx ∧ t.rx = [] ∧
      t.pending = some ⟨f.cmd, atohex f.arg0.toList, atohex f.len.toList, framePayload f, f.mode⟩ ∧
      frameRead f s t ∧ sameSurroundings s t

/-- R196, R194, R142: a complete continue frame is dispatched; the dispatcher's response is sent in its mode and the engine is
then EXITED, where it takes no byte. -/
def Obligations.ContinueExitsAfterItsResponse : Prop :=
  ∀ (f : Frame) (k : Kind) (a : U32) (p : List Byte) (b : Byte) (s : State),
    idle s → f.wf = true → Memory.wf s.pbuf = true → s.params.cmdData ≠ some f.cmd →
    s.params.cmdXferStart ≠ some f.cmd → s.params.cmdCont = some f.cmd → frameLen f ≤ s.params.payloadMax →
    p.length < 2 ^ 32 →
    ∃ t u : State, exec (.reqCont f) s = .next t ∧
      t.fsm = .dispatchWait ∧ t.dataExpected = s.dataExpected ∧ t.dest = s.dest ∧ t.tx = s.tx ∧ t.rx = [] ∧
      t.pending = some ⟨f.cmd, atohex f.arg0.toList, atohex f.len.toList, framePayload f, f.mode⟩ ∧
      frameRead f s t ∧ sameSurroundings s t ∧
      exec (.dispatchResponse k a p) t = .next u ∧
      u = { t with tx := t.tx ++ sent k a p f.mode, pending := none, fsm := .exited } ∧
      exec (.rxByte b) u = .next { u with rx := [b] }

/-- R131 to R134: a header that fails the structural check, delivered to an idle engine, is answered as R134 says and discarded:
of the registers only HDR, HIDX change, and the engine awaits the next SOF. -/
def Obligations.GarbledHeaderIsDiscarded : Prop :=
  ∀ (hdr : Vector Byte 20) (s : State), idle s →
    hdr[1] ≠ 0x2C#8 ∨ hdr[10] ≠ 0x2C#8 ∨ (hdr[19] ≠ 0x23#8 ∧ hdr[19] ≠ 0x25#8) →
    exec (.frameGarbled hdr) s = .next { s with
      hdr := hdr
      hidx := 20
      tx := if s.params.nackOnGarbled then s.tx ++ sent .nack 0#32 reasonGarbled s.respMode else s.tx }

/-- R197: data chunks of 64 bytes at offsets 0, 64, 64 from DATA_EXPECTED = 0: two ACKs and then NACK "data misordering" with
DATA_EXPECTED 128; at offsets 0, 128: an ACK and then that NACK with DATA_EXPECTED 64. -/
def Obligations.ChunkOffsetsMustMatchExactly : Prop :=
  ∀ (f g h k : Frame) (s : State), idle s → Memory.wf s.pbuf = true → Memory.wf s.dest = true → s.dataExpected = 0 →
    64 ≤ s.params.payloadMax → 128 ≤ s.params.destSize →
    (∀ x ∈ [f, g, h, k], x.wf = true ∧ s.params.cmdData = some x.cmd ∧ frameLen x = 64) →
    atohex f.arg0.toList = 0#32 → atohex g.arg0.toList = 64#32 → atohex h.arg0.toList = 64#32 →
    atohex k.arg0.toList = 128#32 →
    ∃ t1 t2 t3 t4 : State,
      exec (.reqData f) s = .next t1 ∧ t1.tx = s.tx ++ sent .ack 0#32 [] f.mode ∧
      exec (.reqData g) t1 = .next t2 ∧ t2.tx = t1.tx ++ sent .ack 0#32 [] g.mode ∧
      exec (.reqData h) t2 = .next t3 ∧ t3.tx = t2.tx ++ sent .nack 0#32 reasonMisordering h.mode ∧ t3.dataExpected = 128 ∧
      exec (.reqData k) t1 = .next t4 ∧ t4.tx = t1.tx ++ sent .nack 0#32 reasonMisordering k.mode ∧ t4.dataExpected = 64

/-! ### Dispatcher response and reset -/

/-- R194, R196: in DISPATCH_WAIT the response is sent in RESP_MODE with one flush, PENDING is emptied, and STATE becomes EXITED
for the continue command and AWAIT_SOF for every other; nothing else changes. In every other state there is no step. -/
def Obligations.DispatchResponseIsSent : Prop :=
  ∀ (k : Kind) (a : U32) (p : List Byte) (s : State), p.length < 2 ^ 32 →
    (∀ q : Request, s.fsm = .dispatchWait → s.pending = some q →
      exec (.dispatchResponse k a p) s = .next { s with
        tx := s.tx ++ sent k a p s.respMode
        pending := none
        fsm := if s.params.cmdCont = some q.cmd then .exited else .awaitSof }) ∧
    (s.fsm ≠ .dispatchWait → exec (.dispatchResponse k a p) s = .fault .responseHasNoStep)

/-- R290, R291, R36: RESET from any state: the registers R36 gives a value take it; the parameters, OTP, DEST, CALLER and the
transport's queue and log do not change; and a response to the request that was pending has no step after it. -/
def Obligations.ResetSetsEngineAndNothingElse : Prop :=
  ∀ s : State, ∃ t : State, exec .reset s = .next t ∧
    t.fsm = .awaitSof ∧ t.hidx = 0 ∧ t.pcnt = 0 ∧ t.phase = 0 ∧ t.tidx = 0 ∧ t.respMode = .hex ∧
    t.dataExpected = 0 ∧ t.pending = none ∧
    t.dest = s.dest ∧ t.rx = s.rx ∧ t.tx = s.tx ∧ sameSurroundings s t ∧
    ∀ (k : Kind) (a : U32) (p : List Byte), p.length < 2 ^ 32 →
      exec (.dispatchResponse k a p) t = .fault .responseHasNoStep

/-- R36, R292: the values the spec states for reset. -/
def Obligations.ResetStateHasSpecifiedValues : Prop :=
  State.reset.fsm = .awaitSof ∧ State.reset.hidx = 0 ∧ State.reset.pcnt = 0 ∧ State.reset.phase = 0 ∧
  State.reset.tidx = 0 ∧ State.reset.respMode = .hex ∧ State.reset.dataExpected = 0 ∧ State.reset.pending = none

/-! ### The OTP tag scanner (spec/44_otp_tags.md) -/

/-- R220, R80, R81: OTP_DECODE's fields by arithmetic on bytes 6 and 7, and the bits of byte 7 that do not matter (I3). -/
def Obligations.OtpDecodeFieldsByArithmetic : Prop :=
  (∀ (raw : Vector Byte 8) (s : State), ∃ d : OtpFields,
    exec (.otpDecode raw) s = .next { s with returns := s.returns ++ [.fields d] } ∧
    d.size = raw[7].toNat / 32 ∧ d.cont = decide (raw[7].toNat / 16 % 2 = 1) ∧
    d.tagId.toNat = raw[6].toNat + 256 * (raw[7].toNat / 2 ^ s.params.tagIdB7Bit.val % 2) ∧
    (d.valid = true ↔ 1 ≤ raw[7].toNat / 32 ∧ raw[7].toNat / 32 ≤ 6)) ∧
  (∀ (x y : Vector Byte 8) (bit : Fin 4), x[6] = y[6] →
    (∀ i, i < 8 → 4 ≤ i ∨ i = bit.val → x[7].getLsbD i = y[7].getLsbD i) → otpDecode bit x = otpDecode bit y)

/-- R80, R81, R220: each record row returns its size field, cont, tag and validity, and the value bytes `REC[0 .. size-1]`; an
invalid record has none. -/
def Obligations.RecordRowsReturnFieldsAndValue : Prop :=
  ∀ (r : RecordBody) (s : State),
    let out (n : Nat) (value : List Byte) : State :=
      { s with returns := s.returns ++ [.record ⟨n, decide (r.cont = 1#1),
          r.tagLow.setWidth 9 ||| ((r.low.extractLsb' s.params.tagIdB7Bit.val 1).setWidth 9 <<< 8),
          decide (1 ≤ n ∧ n ≤ 6)⟩ value] }
    exec (.otpRecInvalidSize0 r) s = .next (out 0 []) ∧
    exec (.otpRecSize1 r) s = .next (out 1 (r.value.toList.take 1)) ∧
    exec (.otpRecSize2 r) s = .next (out 2 (r.value.toList.take 2)) ∧
    exec (.otpRecSize3 r) s = .next (out 3 (r.value.toList.take 3)) ∧
    exec (.otpRecSize4 r) s = .next (out 4 (r.value.toList.take 4)) ∧
    exec (.otpRecSize5 r) s = .next (out 5 (r.value.toList.take 5)) ∧
    exec (.otpRecSize6 r) s = .next (out 6 (r.value.toList.take 6)) ∧
    exec (.otpRecInvalidSize7 r) s = .next (out 7 [])

/-- R222 to R225: wherever the scan comes, by the rules, decides OTP_GET: at a valid record of the tag it is OTP_GET_VALUE of
that record (R224); past the region it is -ENOENT and at an unreadable record -EIO, and then no byte of CALLER changes
(R231). -/
def Obligations.OtpGetFollowsTheScanRules : Prop :=
  ∀ (s : State) (tag : U32) (base bufSize off : Nat) (skip : Bool), ScanReaches s tag off skip →
    (∀ raw : Vector Byte 8, skip = false → off < 8192 → otpRead s off = some raw → recordValid raw = true →
      (recordTag s.params.tagIdB7Bit raw).setWidth 32 = tag →
      exec (.otpGet tag base bufSize) s = exec (.otpGetValue raw off base bufSize) s) ∧
    (8192 ≤ off → exec (.otpGet tag base bufSize) s = .next { s with returns := s.returns ++ [.status .enoent] }) ∧
    (off < 8192 → otpRead s off = none →
      exec (.otpGet tag base bufSize) s = .next { s with returns := s.returns ++ [.status .eio] })

/-- R222, R226, R230, R231, R53: OTP_GET and OTP_GET_VALUE always answer; a count never exceeds buf_size; -ENOENT leaves CALLER
alone; and no byte of CALLER outside the caller's buffer changes. -/
def Obligations.OtpOperationsStayInTheBuffer : Prop :=
  ∀ (tag : U32) (raw : Vector Byte 8) (offset base bufSize : Nat) (s : State), Memory.wf s.caller = true →
    ∀ i ∈ [Instr.otpGet tag base bufSize, Instr.otpGetValue raw offset base bufSize],
      ∃ (st : Status) (mem : Memory),
        exec i s = .next { s with caller := mem, returns := s.returns ++ [.status st] } ∧
        (∀ n, st = .count n → n ≤ bufSize) ∧ (st = .enoent → mem = s.caller) ∧
        (∀ a, a < base ∨ base + bufSize ≤ a → Memory.read mem a = Memory.read s.caller a)

/-- R226, R57: OTP_GET_VALUE of a misaligned or out-of-region offset is -EBADF, and of an invalid head -EIO; nothing is
written. -/
def Obligations.OtpGetValueChecksItsArguments : Prop :=
  ∀ (raw : Vector Byte 8) (offset base bufSize : Nat) (s : State),
    (offset % 8 ≠ 0 ∨ offset < 4096 ∨ 8192 ≤ offset →
      exec (.otpGetValue raw offset base bufSize) s = .next { s with returns := s.returns ++ [.status .ebadf] }) ∧
    (offset % 8 = 0 → 4096 ≤ offset → offset < 8192 → raw[7].toNat / 32 = 0 ∨ raw[7].toNat / 32 = 7 →
      exec (.otpGetValue raw offset base bufSize) s = .next { s with returns := s.returns ++ [.status .eio] })

/-- R82, R226 to R230: OTP_GET_VALUE of a chain whose records are readable and valid up to its end or to where the buffer is
full returns the smaller of their value's length and buf_size, whatever stands in OTP after them; the caller's buffer holds the
value, truncated or padded with zeros, and no other byte of CALLER changes. -/
def Obligations.OtpGetValueReturnsTheChain : Prop :=
  ∀ (raw : Vector Byte 8) (rest : List (Vector Byte 8)) (offset base bufSize : Nat) (s : State),
    Memory.wf s.caller = true → offset % 8 = 0 → 4096 ≤ offset → offset < 8192 → recordValid raw = true →
    followsInChain s offset raw rest →
    recordCont (rest.getLastD raw) = false ∨ bufSize ≤ (chainValue (raw :: rest)).length →
    ∃ mem : Memory,
      exec (.otpGetValue raw offset base bufSize) s = .next { s with
        caller := mem
        returns := s.returns ++ [.status (.count (min (chainValue (raw :: rest)).length bufSize))] } ∧
      (∀ i, i < bufSize → Memory.read mem (base + i) = (chainValue (raw :: rest)).getD i 0#8) ∧
      (∀ a, a < base ∨ base + bufSize ≤ a → Memory.read mem a = Memory.read s.caller a)

/-- R228, R229: a chain that breaks off after any number of readable, valid records with cont set, while space remains: past the
region it is -EBADF, and at an unreadable or invalid continuation record -EIO; the buffer holds the value bytes of those
records and then zeros, and no other byte of CALLER changes. -/
def Obligations.BrokenChainKeepsTheBytesCopied : Prop :=
  ∀ (raw : Vector Byte 8) (rest : List (Vector Byte 8)) (offset base bufSize : Nat) (s : State),
    Memory.wf s.caller = true → offset % 8 = 0 → 4096 ≤ offset → offset < 8192 → recordValid raw = true →
    followsInChain s offset raw rest → recordCont (rest.getLastD raw) = true →
    (chainValue (raw :: rest)).length < bufSize →
    let next := offset + 8 * (rest.length + 1)
    next = 8192 ∨ otpRead s next = none ∨ (∃ x, otpRead s next = some x ∧ recordValid x = false) →
    ∃ mem : Memory,
      exec (.otpGetValue raw offset base bufSize) s = .next { s with
        caller := mem
        returns := s.returns ++ [.status (if next = 8192 then .ebadf else .eio)] } ∧
      (∀ i, i < bufSize → Memory.read mem (base + i) = (chainValue (raw :: rest)).getD i 0#8) ∧
      (∀ a, a < base ∨ base + bufSize ≤ a → Memory.read mem a = Memory.read s.caller a)

/-- R222 (spec/93_implementation_defined.md O5): a tag above 0x1FF never matches: the status is -ENOENT or -EIO, and CALLER does
not change. -/
def Obligations.WideTagNeverMatches : Prop :=
  ∀ (tag : U32) (base bufSize : Nat) (s : State), 0x1FF < tag.toNat →
    ∃ st : Status, (st = .enoent ∨ st = .eio) ∧
      exec (.otpGet tag base bufSize) s = .next { s with returns := s.returns ++ [.status st] }

/-- R83: the i32 of each status. -/
def Obligations.StatusNumbersAreTheSpecs : Prop :=
  (statusI32 .enoent).toInt = -2 ∧ (statusI32 .eio).toInt = -5 ∧ (statusI32 .ebadf).toInt = -9 ∧
  ∀ n, n < 2 ^ 31 → (statusI32 (.count n)).toInt = n

/-! ### Rules of the whole machine -/

/-- R33, R51, R61: no instruction changes the parameters, OTP_IMAGE or OTP_BAD; nor does a step. -/
def Obligations.ParametersAndOtpNeverChange : Prop :=
  (∀ (i : Instr) (s t : State), exec i s = .next t →
    t.params = s.params ∧ t.otpImage = s.otpImage ∧ t.otpBad = s.otpBad) ∧
  (∀ s t : State, step s = .next t → t.params = s.params ∧ t.otpImage = s.otpImage ∧ t.otpBad = s.otpBad)

/-- R5, R20, R31, R62: an operation of the caller changes no register of the engine, no byte of DEST and neither stream; an
operation of the engine changes no byte of CALLER and returns nothing. -/
def Obligations.UnitsDoNotTouchEachOther : Prop :=
  ∀ (i : Instr) (s t : State), exec i s = .next t →
    (isCallerOp i = true → sameEngine s t ∧ t.dest = s.dest ∧ t.rx = s.rx ∧ t.tx = s.tx) ∧
    (isCallerOp i = false → t.caller = s.caller ∧ t.returns = s.returns)

/-- R5 (D34), R62: an operation of the caller and an operation of the engine may be done in either order: where one order goes
through, so does the other, to the same state. -/
def Obligations.UnitsCommute : Prop :=
  ∀ (i j : Instr) (s u : State), isCallerOp i = true → isCallerOp j = false →
    ((∃ t : State, exec i s = .next t ∧ exec j t = .next u) ↔ (∃ v : State, exec j s = .next v ∧ exec i v = .next u))

/-- R29: RX_BYTE changes DATA_EXPECTED only on the 8th trailer character of an accepted data chunk, which it moves past, or of a
transfer start, which sets it to 0; of the other operations only RESET and the delivery of wire bytes can change it. -/
def Obligations.OnlyDataTransferMovesTheOffset : Prop :=
  (∀ (b : Byte) (s t : State), exec (.rxByte b) s = .next t → t.dataExpected ≠ s.dataExpected →
    s.fsm = .readCrc ∧ s.tidx = 7 ∧ s.reqLen.toNat ≤ s.params.payloadMax ∧ atohex t.trl.toList = s.crcAcc ∧
    ((s.params.cmdData = some s.reqCmd ∧ s.reqArg0.toNat = s.dataExpected ∧
        t.dataExpected = s.dataExpected + s.reqLen.toNat ∧ t.dataExpected ≤ s.params.destSize) ∨
     (s.params.cmdXferStart = some s.reqCmd ∧ t.dataExpected = 0))) ∧
  (∀ (i : Instr) (s t : State), exec i s = .next t →
    (isCallerOp i = true ∨ (∃ k a p, i = .dispatchResponse k a p) ∨ (∃ a p m, i = .respAck a p m) ∨
      (∃ a p m, i = .respNack a p m)) →
    t.dataExpected = s.dataExpected)

/-- R28: RX_BYTE changes RESP_MODE only when the 20th byte completes a header that the structural check accepts, to that
header's mode; of the other operations only RESET and the delivery of wire bytes can change it. -/
def Obligations.OnlyAcceptedHeadersSetResponseMode : Prop :=
  (∀ (b : Byte) (s t : State), exec (.rxByte b) s = .next t → t.respMode ≠ s.respMode →
    s.fsm = .readHeader ∧ s.hidx = 19 ∧ headerOk t.hdr = true ∧ t.respMode = headerMode t.hdr) ∧
  (∀ (i : Instr) (s t : State), exec i s = .next t →
    (isCallerOp i = true ∨ (∃ k a p, i = .dispatchResponse k a p) ∨ (∃ a p m, i = .respAck a p m) ∨
      (∃ a p m, i = .respNack a p m)) →
    t.respMode = s.respMode)

/-- The invariants hold at State.reset (which is the model's choice where R36 gives no value, log entry 2). -/
def Obligations.InvariantsHoldAtReset : Prop := State.reset.Inv ∧ State.reset.FrameInv

/-- R22, R25, R27, R29, R30, R176, R143 and the memories' canonical form: every step keeps State.Inv, from every state that has
it. -/
def Obligations.StepKeepsTheRegisterInvariant : Prop :=
  ∀ s t : State, s.Inv → step s = .next t → t.Inv

/-- R24, and of R143 what concerns the request that waits: every step keeps State.FrameInv: CRC_ACC is the CRC of the header and of the payload wire bytes received so far,
PBUF what they decode to, and the request that waits for the dispatcher is the decoding of bytes whose header passed the
structural check and whose CRC is the trailer. -/
def Obligations.StepKeepsTheFrameInvariant : Prop :=
  ∀ s t : State, s.Inv → s.FrameInv → step s = .next t → t.FrameInv

/-! ### Decoding and stepping -/

/-- Decode and encode agree: every well-formed instruction, with every operand at every value, is read back from its encoding
(wire layout R70 to R73, record layout R80, operation codes R84; the operand bytes of OP are the model's, log entry 6). -/
def Obligations.DecodeOfEncodeIsTheInstruction : Prop :=
  ∀ (P : Params) (i : Instr), i.wf P = true → decode P (encode i) = .ok i

/-- What decodes is well formed, under the same parameters. -/
def Obligations.DecodedInstructionIsWellFormed : Prop :=
  ∀ (P : Params) (t : Transaction) (i : Instr), decode P t = .ok i → i.wf P = true

/-- R70, R71, R80: no byte of a wire frame, of a header, of a delimiter or of a record is dropped: each is the encoding of what
it decodes to. -/
def Obligations.WireBytesAreNotDropped : Prop :=
  ∀ (P : Params) (t : Transaction) (i : Instr), t.format ≠ .op → decode P t = .ok i → encode i = t

/-- Words written out from the spec's encodings: the `V` frame of RX-1, a garbled header (RX-2), both delimiters, operation
code 0x12, and the records of image OTP-L1; and RX_BYTE of 0x3E, whose operation code 0x10 is R84's and whose operand byte
behind it is the model's choice (log entry 6: the spec gives the operands of the operations no bytes). -/
def Obligations.SpecWordsDecode : Prop :=
  (∃ f : Frame, decode Params.default ⟨.frameRx, [0x3E#8, 0x56#8, 0x2C#8, 0x30#8, 0x30#8, 0x30#8, 0x30#8, 0x30#8, 0x30#8,
      0x30#8, 0x30#8, 0x2C#8, 0x30#8, 0x30#8, 0x30#8, 0x30#8, 0x30#8, 0x30#8, 0x30#8, 0x30#8, 0x23#8,
      0x38#8, 0x42#8, 0x44#8, 0x41#8, 0x38#8, 0x30#8, 0x43#8, 0x42#8]⟩ = .ok (.reqDispatch f) ∧
    f.cmd = 0x56#8 ∧ f.mode = .hex ∧ frameLen f = 0 ∧ frameCrc f = 0x8BDA80CB#32) ∧
  decode Params.default ⟨.header, [0x53#8, 0x3B#8, 0x30#8, 0x30#8, 0x30#8, 0x30#8, 0x30#8, 0x30#8, 0x30#8, 0x30#8,
      0x2C#8, 0x30#8, 0x30#8, 0x30#8, 0x30#8, 0x30#8, 0x30#8, 0x30#8, 0x30#8, 0x23#8]⟩
    = .ok (.frameGarbled #v[0x53#8, 0x3B#8, 0x30#8, 0x30#8, 0x30#8, 0x30#8, 0x30#8, 0x30#8, 0x30#8, 0x30#8,
      0x2C#8, 0x30#8, 0x30#8, 0x30#8, 0x30#8, 0x30#8, 0x30#8, 0x30#8, 0x30#8, 0x23#8]) ∧
  decode Params.default ⟨.delim, [0x23#8]⟩ = .ok .delimHex ∧
  decode Params.default ⟨.delim, [0x25#8]⟩ = .ok .delimBin ∧
  decode Params.default ⟨.op, [0x12#8]⟩ = .ok .reset ∧
  decode Params.default ⟨.op, [0x10#8, 0x3E#8]⟩ = .ok (.rxByte 0x3E#8) ∧
  decode Params.default ⟨.record, [0xA1#8, 0xA2#8, 0xA3#8, 0x00#8, 0x00#8, 0x00#8, 0x01#8, 0x60#8]⟩
    = .ok (.otpRecSize3 ⟨#v[0xA1#8, 0xA2#8, 0xA3#8, 0x00#8, 0x00#8, 0x00#8], 0x01#8, 0#1, 0#4⟩) ∧
  decode Params.default ⟨.record, [0xB1#8, 0xB2#8, 0xB3#8, 0xB4#8, 0xB5#8, 0xB6#8, 0x02#8, 0xD1#8]⟩
    = .ok (.otpRecSize6 ⟨#v[0xB1#8, 0xB2#8, 0xB3#8, 0xB4#8, 0xB5#8, 0xB6#8], 0x02#8, 1#1, 1#4⟩) ∧
  decode Params.default ⟨.record, [0x11#8, 0x22#8, 0x33#8, 0x44#8, 0x55#8, 0x66#8, 0x55#8, 0xE0#8]⟩
    = .ok (.otpRecInvalidSize7 ⟨#v[0x11#8, 0x22#8, 0x33#8, 0x44#8, 0x55#8, 0x66#8], 0x55#8, 0#1, 0#4⟩)

/-- A step runs the decoded instruction (the inbox is the model's, log entry 5): the transaction that pick takes, decoded under
the parameters, is executed in the state without it; with no RESET pending that is the oldest transaction that has a step, past
any waiting responses without one, and these leave the inbox with it, which is the model's choice (log entry 13), whatever
their operands are (log entry 24); and the host's word, placed, is run by the very next step. A transaction that is no
instruction and brings no received bytes is refused by name (R84, R14; log entry 22). Command codes that are not pairwise distinct are refused (R7, spec/93_implementation_defined.md O7). -/
def Obligations.StepRunsTheDecodedInstruction : Prop :=
  (∀ (s : State) (t : Transaction) (others : List Transaction) (i : Instr), s.params.wf = true →
    pick s.fsm s.inbox = some (t, others) → decode s.params t = .ok i → step s = exec i { s with inbox := others }) ∧
  (∀ (s : State) (before after : List Transaction) (t : Transaction) (i : Instr), s.params.wf = true →
    s.inbox = before ++ t :: after → (∀ u ∈ before, hasNoStep s.fsm u = true) → hasNoStep s.fsm t = false →
    encode .reset ∉ after → decode s.params t = .ok i → step s = exec i { s with inbox := after }) ∧
  (∀ (s : State) (nbits w : Nat) (i : Instr), s.params.wf = true →
    hasNoStep s.fsm (tableTransaction nbits w) = false → decode s.params (tableTransaction nbits w) = .ok i →
    step (s.withFetchWord nbits w) = exec i { s with inbox := s.inbox.filter fun u => decide (u ≠ encode .reset) }) ∧
  (∀ (s : State) (t : Transaction) (others : List Transaction) (e : DecodeError), s.params.wf = true →
    pick s.fsm s.inbox = some (t, others) → decode s.params t = .error e →
    t.format = .op ∨ t.format = .frameTx ∨ t.format = .record → step s = .refused (.undecodable e)) ∧
  (∀ s : State, s.params.wf = false → step s = .refused .badParameters)

/-- R54, R142, R267, R193 and R196: with nothing in the inbox that has a step, the engine takes the oldest byte the transport
holds, and responses whose turn has passed so are gone (log entry 13); with no byte, or in a state that takes none, no step is
left, and the model stops under the hang's name, or under responseHasNoStep where such a response stands (log entry 14). -/
def Obligations.EngineGoesOnAlone : Prop :=
  ∀ s : State, s.params.wf = true → (∀ u ∈ s.inbox, hasNoStep s.fsm u = true) →
    (∀ (b : Byte) (rest : List Byte), s.fsm ≠ .dispatchWait → s.fsm ≠ .exited → s.rx = b :: rest →
      ∃ t : State, exec (.rxByte b) { s with rx := [], inbox := [] } = .next t ∧ step s = .next { t with rx := rest }) ∧
    (s.fsm ≠ .dispatchWait → s.fsm ≠ .exited → s.rx = [] →
      step s = .fault (if s.inbox = [] then .hangRx else .responseHasNoStep)) ∧
    (s.fsm = .dispatchWait → step s = .fault .hangDispatch) ∧
    (s.fsm = .exited → step s = .fault (if s.inbox = [] then .exited else .responseHasNoStep))

/-- R290, R269: a RESET that is pending is taken before everything that is pending with it: the RX_BYTEs, responses and other
transactions handed in before it, and the bytes the transport holds. The engine's registers take their reset values, and of the
responses handed in before the RESET none is left: they have no step after it. A response whose turn comes outside DISPATCH_WAIT
(R194) is not taken, then or later: the step is the one that is taken without it (log entries 5 and 13: the inbox, and that a
response does not wait in it, are the model's). That a response outside its domain (O2), known by its operation code alone, is
passed over or removed like any other, and not refused, is the model's choice too (log entry 24). -/
def Obligations.ResetTakesPriorityOverEverything : Prop :=
  (∀ (s : State) (before after : List Transaction), s.params.wf = true →
    s.inbox = before ++ encode .reset :: after → encode .reset ∉ before →
    ∃ t : State, step s = .next t ∧
      t.fsm = .awaitSof ∧ t.hidx = 0 ∧ t.pcnt = 0 ∧ t.phase = 0 ∧ t.tidx = 0 ∧ t.respMode = .hex ∧
      t.dataExpected = 0 ∧ t.pending = none ∧
      t.dest = s.dest ∧ t.rx = s.rx ∧ t.tx = s.tx ∧ t.params = s.params ∧ t.otpImage = s.otpImage ∧
      t.otpBad = s.otpBad ∧ t.caller = s.caller ∧ t.returns = s.returns ∧
      t.inbox = before.filter (fun u => !isResponse u) ++ after) ∧
  (∀ (k : Kind) (a : U32) (p : List Byte), isResponse (encode (.dispatchResponse k a p)) = true) ∧
  (∀ (s : State) (k : Kind) (a : U32) (p : List Byte) (rest : List Transaction), s.fsm ≠ .dispatchWait →
    s.inbox = encode (.dispatchResponse k a p) :: rest →
    ∀ t : State, step s = .next t ↔ step { s with inbox := rest } = .next t)
end

