-- ==== Sys2Proof/Laws/Codec.lean ====
section
/-! SUPPORT. The laws of the codec: composability of the CRC (spec/40_crc_hex.md R102), the round trips of R109, lengths,
and the round trips of the byte-order helpers. -/

namespace Sys2Proof.Machine

/-! ### CRC32C -/

@[simp] theorem crc32c_nil (seed : U32) : crc32c seed [] = seed := by simp [crc32c]

theorem crc32c_append (seed : U32) (a b : List Byte) : crc32c seed (a ++ b) = crc32c (crc32c seed a) b := by
  simp [crc32c, List.foldl_append]

theorem crc32c_cons (seed : U32) (b : Byte) (bs : List Byte) :
    crc32c seed (b :: bs) = crc32c (crc32c seed [b]) bs := crc32c_append seed [b] bs

/-! ### Hex digits -/

@[simp] theorem hex2nibble_hexchar : ∀ n : BitVec 4, hex2nibble (hexchar n) = n.setWidth 32 := by decide

@[simp] theorem atohex_nil : atohex [] = 0#32 := rfl

theorem atohex_concat (l : List Byte) (c : Byte) : atohex (l ++ [c]) = atohexStep (atohex l) c := by
  simp [atohex, List.foldl_append]

theorem hex2str_eq (v : U32) : hex2str v =
    [hexchar (v.extractLsb' 28 4), hexchar (v.extractLsb' 24 4), hexchar (v.extractLsb' 20 4),
     hexchar (v.extractLsb' 16 4), hexchar (v.extractLsb' 12 4), hexchar (v.extractLsb' 8 4),
     hexchar (v.extractLsb' 4 4), hexchar (v.extractLsb' 0 4)] := rfl

@[simp] theorem hex2str_length (v : U32) : (hex2str v).length = 8 := rfl

/-- The hex field round trip (R109). -/
@[simp] theorem atohex_hex2str (v : U32) : atohex (hex2str v) = v := by
  rw [hex2str_eq]
  simp only [atohex, List.foldl, atohexStep, hex2nibble_hexchar]
  ext i hi
  simp only [BitVec.getElem_or, BitVec.getElem_shiftLeft, BitVec.getElem_setWidth, BitVec.getLsbD_extractLsb']
  interval_cases i <;> simp [BitVec.getLsbD_eq_getElem]

/-! ### Pairs -/

theorem pairEncode_eq (b : Byte) : pairEncode b = [hexchar (b.extractLsb' 4 4), hexchar (b.extractLsb' 0 4)] := rfl

@[simp] theorem pairEncode_length (b : Byte) : (pairEncode b).length = 2 := rfl

/-- The payload pair round trip (R109). -/
theorem pairDecode_pairEncode (b : Byte) :
    pairDecode (hexchar (b.extractLsb' 4 4)) (hexchar (b.extractLsb' 0 4)) = b := by
  simp only [pairDecode, atohex, List.foldl, atohexStep, hex2nibble_hexchar]
  ext i hi
  simp only [BitVec.getElem_setWidth, BitVec.getLsbD_or, BitVec.getLsbD_shiftLeft, BitVec.getLsbD_setWidth,
    BitVec.getLsbD_extractLsb']
  interval_cases i <;> simp [BitVec.getLsbD_eq_getElem]

theorem unpair_flatMap_pairEncode (p : List Byte) : unpair (p.flatMap pairEncode) = p := by
  induction p with
  | nil => rfl
  | cons b p ih => simp [List.flatMap_cons, pairEncode_eq, unpair, pairDecode_pairEncode, ih]

theorem unpair_length (w : List Byte) (n : Nat) (h : w.length = 2 * n) : (unpair w).length = n := by
  induction n generalizing w with
  | zero => rw [List.length_eq_zero_iff.mp (by omega : w.length = 0)]; rfl
  | succ n ih =>
    match w, h with
    | a :: b :: rest, h =>
      simp only [unpair, List.length_cons, Nat.add_right_cancel_iff]
      exact ih rest (by simp only [List.length_cons] at h; omega)
    | [_], h => simp at h; omega
    | [], h => simp at h

/-- One more pair of characters is one more byte (R137). -/
theorem unpair_append_pair (w : List Byte) (n : Nat) (h : w.length = 2 * n) (hi lo : Byte) :
    unpair (w ++ [hi, lo]) = unpair w ++ [pairDecode hi lo] := by
  induction n generalizing w with
  | zero => rw [List.length_eq_zero_iff.mp (by omega : w.length = 0)]; rfl
  | succ n ih =>
    match w, h with
    | a :: b :: rest, h =>
      simp only [unpair, List.cons_append]
      rw [ih rest (by simp only [List.length_cons] at h; omega)]
    | [_], h => simp at h; omega
    | [], h => simp at h

theorem flatMap_pairEncode_length (p : List Byte) : (p.flatMap pairEncode).length = 2 * p.length := by
  induction p with
  | nil => rfl
  | cons b p ih => simp [List.flatMap_cons, ih]; omega

@[simp] theorem wirePayload_length (p : List Byte) (m : Mode) : (wirePayload p m).length = wireLen p.length m := by
  cases m
  · exact flatMap_pairEncode_length p
  · rfl

/-- The wire bytes of a payload decode to it (R72, R109). -/
@[simp] theorem decodePayload_wirePayload (p : List Byte) (m : Mode) : decodePayload (wirePayload p m) m = p := by
  cases m
  · exact unpair_flatMap_pairEncode p
  · rfl

theorem decodePayload_length (w : List Byte) (m : Mode) (n : Nat) (h : w.length = wireLen n m) :
    (decodePayload w m).length = n := by
  cases m
  · exact unpair_length w n h
  · exact h

/-! ### Frames -/

@[simp] theorem modeOfDelim_delimOf (m : Mode) : modeOfDelim (delimOf m) = some m := by cases m <;> rfl

theorem modeOfDelim_some {b : Byte} {m : Mode} (h : modeOfDelim b = some m) : b = delimOf m := by
  unfold modeOfDelim at h
  split at h
  · next hb => cases h; exact hb
  · split at h
    · next hb => cases h; exact hb
    · cases h

@[simp] theorem frameHeader_length (f : Frame) : (frameHeader f).length = 20 := by simp [frameHeader]

@[simp] theorem encodeHeader_length (c : Byte) (a : U32) (p : List Byte) (m : Mode) :
    (encodeHeader c a p m).length = 20 := by simp [encodeHeader]

/-- The length of an encoded frame (R75). -/
theorem frameEncode_length (c : Byte) (a : U32) (p : List Byte) (m : Mode) :
    (frameEncode c a p m).length = 29 + wireLen p.length m := by
  simp only [frameEncode, List.cons_append, List.length_cons, List.length_append, encodeHeader_length,
    wirePayload_length, hex2str_length]
  omega

theorem frameLen_lt (f : Frame) : frameLen f < 2 ^ 32 := (atohex f.len.toList).isLt

theorem framePayload_length (f : Frame) (h : f.payload.length = wireLen (frameLen f) f.mode) :
    (framePayload f).length = frameLen f := decodePayload_length f.payload f.mode (frameLen f) h

/-! ### Byte order and numbers -/

theorem ofBe32_be32 (v : U32) :
    ofBe32 (v.extractLsb' 24 8) (v.extractLsb' 16 8) (v.extractLsb' 8 8) (v.extractLsb' 0 8) = v := by
  unfold ofBe32
  ext i hi
  simp only [BitVec.getElem_append]
  interval_cases i <;> simp [BitVec.getElem_extractLsb', BitVec.getLsbD_eq_getElem]

@[simp] theorem take32_be32 (v : U32) (rest : List Byte) : take32 (be32 v ++ rest) = some (v, rest) := by
  simp [be32, take32, ofBe32_be32]

@[simp] theorem be32_length (v : U32) : (be32 v).length = 4 := rfl

theorem natBytesAux_take (fuel n : Nat) (h : n ≤ fuel) (rest : List Byte) :
    takeNat (natBytesAux fuel n ++ rest) = some (n, rest) := by
  induction fuel generalizing n with
  | zero =>
    obtain rfl : n = 0 := by omega
    simp [natBytesAux, takeNat]
  | succ fuel ih =>
    simp only [natBytesAux]
    split
    · next hn =>
      have : n % 256 = n := Nat.mod_eq_of_lt (by omega)
      simp [takeNat, BitVec.toNat_ofNat, this, hn]
    · next hn =>
      have hb : (BitVec.ofNat 8 (128 + n % 128)).toNat = 128 + n % 128 := by
        rw [BitVec.toNat_ofNat]; exact Nat.mod_eq_of_lt (by omega)
      have hlt : ¬ (128 + n % 128 < 128) := by omega
      simp only [List.cons_append, takeNat, hb, if_neg hlt, ih (n / 128) (by omega)]
      congr 2
      omega

@[simp] theorem takeNat_natBytes (n : Nat) (rest : List Byte) : takeNat (natBytes n ++ rest) = some (n, rest) :=
  natBytesAux_take n n (Nat.le_refl n) rest

/-- A list of 8 bytes is taken whole. -/
theorem take8_append (v : Vector Byte 8) (rest : List Byte) : take8 (v.toList ++ rest) = some (v, rest) := by
  obtain ⟨⟨l⟩, h⟩ := v
  match l, h with
  | [a, b, c, d, e, f, g, i], _ => rfl

@[simp] theorem take8_toList (v : Vector Byte 8) : take8 v.toList = some (v, []) := by
  simpa using take8_append v []

theorem take8_some {bs : List Byte} {v : Vector Byte 8} {rest : List Byte} (h : take8 bs = some (v, rest)) :
    bs = v.toList ++ rest := by
  unfold take8 at h
  split at h
  · cases h; rfl
  · cases h

end Sys2Proof.Machine
end

