-- ==== Sys2Proof/Laws/Decode.lean ====
section
/-! SUPPORT. Taking a frame's bytes apart and putting them together again (spec/30_encoding.md R70, R71, R85), and the frame
that FRAME_ENCODE makes as such a frame. -/

namespace Sys2Proof

open Machine

/-- A frame's bytes are taken apart into the frame, when its payload has the length its header gives. -/
theorem parseFrame_frameBytes (f : Frame) (h : f.payload.length = wireLen (frameLen f) f.mode) :
    parseFrame (frameBytes f) = .ok f := by
  obtain ⟨c, a, l, m, p, t⟩ := f
  have hb : frameBytes ⟨c, a, l, m, p, t⟩ = Config.sof :: c :: Config.sep ::
      (a.toList ++ Config.sep :: (l.toList ++ delimOf m :: (p ++ t.toList))) := by
    simp [frameBytes, frameHeader]
  have hn : wireLen (atohex l.toList).toNat m = p.length := h.symm
  rw [hb, parseFrame, if_neg (by simp), if_neg (by simp), take8_append]
  simp only [ne_eq, not_true_eq_false, if_false, take8_append, modeOfDelim_delimOf, hn, List.drop_left, List.take_left]
  rw [take8_toList]

/-- What is taken apart is the bytes of a frame whose payload has the length its header gives. -/
theorem parseFrame_ok {bs : List Byte} {f : Frame} (h : parseFrame bs = .ok f) :
    bs = frameBytes f ∧ f.payload.length = wireLen (frameLen f) f.mode := by
  unfold parseFrame at h
  split at h
  · next s c p1 r1 =>
    split at h
    · cases h
    · next hs =>
      split at h
      · cases h
      · next hp1 =>
        split at h
        · next a p2 r2 htake1 =>
          split at h
          · cases h
          · next hp2 =>
            split at h
            · next l d r3 htake2 =>
              split at h
              · cases h
              · next m hm =>
                simp only at h
                split at h
                · next t htake3 =>
                  cases h
                  have e1 := take8_some htake1
                  have e2 := take8_some htake2
                  have e3 := take8_some htake3
                  have ed := modeOfDelim_some hm
                  simp only [ne_eq, Decidable.not_not] at hs hp1 hp2
                  subst hs hp1 hp2 ed e1 e2
                  simp only [List.append_nil] at e3
                  generalize hn : wireLen (atohex l.toList).toNat m = n at e3
                  have hlen : (r3.take n).length = n := by
                    have h8 : (r3.drop n).length = 8 := by rw [e3]; simp
                    rw [List.length_drop] at h8
                    rw [List.length_take]
                    omega
                  refine ⟨?_, ?_⟩
                  · simp only [frameBytes, frameHeader, ← e3]
                    simp [List.append_assoc]
                  · exact hlen.trans hn.symm
                · cases h
            · cases h
        · cases h
  · cases h

/-- The 8 characters of a hex field. -/
def hexField (v : U32) : Vector Byte 8 := ⟨(hex2str v).toArray, by simp⟩

@[simp] theorem hexField_toList (v : U32) : (hexField v).toList = hex2str v := rfl

/-- The frame that FRAME_ENCODE makes (R171 to R173). -/
def encodedFrame (c : Byte) (a : U32) (p : List Byte) (m : Mode) : Frame :=
  ⟨c, hexField a, hexField (BitVec.ofNat 32 p.length), m, wirePayload p m,
    hexField (crc32c 0#32 (encodeHeader c a p m ++ wirePayload p m))⟩

theorem frameBytes_encodedFrame (c : Byte) (a : U32) (p : List Byte) (m : Mode) :
    frameBytes (encodedFrame c a p m) = frameEncode c a p m := by
  simp [frameBytes, frameHeader, encodedFrame, frameEncode, encodeHeader]

theorem frameLen_encodedFrame (c : Byte) (a : U32) (p : List Byte) (m : Mode) (h : p.length < 2 ^ 32) :
    frameLen (encodedFrame c a p m) = p.length := by
  simp only [frameLen, encodedFrame, hexField_toList, atohex_hex2str, BitVec.toNat_ofNat]
  exact Nat.mod_eq_of_lt h

theorem framePayload_encodedFrame (c : Byte) (a : U32) (p : List Byte) (m : Mode) :
    framePayload (encodedFrame c a p m) = p := by
  simp [framePayload, encodedFrame]

/-- The encoder's frames are well formed (R139, R173). -/
theorem encodedFrame_wf (c : Byte) (a : U32) (p : List Byte) (m : Mode) (h : p.length < 2 ^ 32) :
    (encodedFrame c a p m).wf = true := by
  have hl := frameLen_encodedFrame c a p m h
  simp only [Frame.wf, Bool.and_eq_true, decide_eq_true_eq]
  refine ⟨by rw [hl]; simp [encodedFrame], ?_⟩
  simp [encodedFrame, frameCrc, frameHeader, encodeHeader]

theorem parseFrame_frameEncode (c : Byte) (a : U32) (p : List Byte) (m : Mode) (h : p.length < 2 ^ 32) :
    parseFrame (frameEncode c a p m) = .ok (encodedFrame c a p m) := by
  rw [← frameBytes_encodedFrame]
  refine parseFrame_frameBytes _ ?_
  rw [frameLen_encodedFrame c a p m h]
  simp [encodedFrame]

end Sys2Proof
end

