-- ==== Sys2Proof/Laws/Memory.lean ====
section
/-! SUPPORT. The laws of the byte memories: a read after a write, and the canonical form kept by every operation. -/

namespace Sys2Proof.Machine

/-- Every entry of `m` lies above `a`. -/
def Memory.above (a : Nat) (m : Memory) : Prop := ∀ c ∈ m, a < c.1

theorem Memory.wf_cons_iff (a : Nat) (v : Byte) (m : Memory) :
    Memory.wf ((a, v) :: m) = true ↔ v ≠ Memory.unlisted ∧ Memory.above a m ∧ Memory.wf m = true := by
  induction m generalizing a v with
  | nil => simp [Memory.wf, Memory.above]
  | cons c m ih =>
    obtain ⟨b, w⟩ := c
    have ih' := ih b w
    simp only [Memory.wf, Memory.above, Bool.and_eq_true, decide_eq_true_eq, List.forall_mem_cons] at ih' ⊢
    constructor
    · rintro ⟨⟨hv, hab⟩, hw⟩
      exact ⟨hv, ⟨hab, fun c hc => Nat.lt_trans hab ((ih'.mp hw).2.1 c hc)⟩, hw⟩
    · rintro ⟨hv, ⟨hab, -⟩, hw⟩
      exact ⟨⟨hv, hab⟩, hw⟩

@[simp] theorem Memory.read_nil (a : Nat) : Memory.read [] a = Memory.unlisted := rfl

theorem Memory.read_above {m : Memory} {a : Nat} (h : Memory.above a m) : Memory.read m a = Memory.unlisted := by
  induction m with
  | nil => rfl
  | cons c m ih =>
    obtain ⟨b, w⟩ := c
    have hb : a < b := h (b, w) (by simp)
    have : b ≠ a := by omega
    simp only [Memory.read, if_neg this]
    exact ih fun c hc => h c (by simp [hc])

theorem Memory.above_write {m : Memory} {k a : Nat} {v : Byte} (hm : Memory.above k m) (ha : k < a) :
    Memory.above k (Memory.write m a v) := by
  induction m with
  | nil => simp only [Memory.write]; split <;> simp [Memory.above, ha]
  | cons c m ih =>
    obtain ⟨b, w⟩ := c
    have hb : k < b := hm (b, w) (by simp)
    have hm' : Memory.above k m := fun c hc => hm c (by simp [hc])
    simp only [Memory.write]
    split
    · split
      · exact hm
      · simpa [Memory.above, ha, hb] using hm'
    · split
      · split
        · exact hm'
        · simpa [Memory.above, hb] using hm'
      · intro c hc
        rcases List.mem_cons.mp hc with rfl | hc
        · exact hb
        · exact ih hm' c hc

theorem Memory.wf_write {m : Memory} (a : Nat) (v : Byte) (h : Memory.wf m = true) :
    Memory.wf (Memory.write m a v) = true := by
  induction m with
  | nil => simp only [Memory.write]; split <;> simp_all [Memory.wf]
  | cons c m ih =>
    obtain ⟨b, w⟩ := c
    obtain ⟨hw, hb, hm⟩ := (Memory.wf_cons_iff b w m).mp h
    simp only [Memory.write]
    split
    · next hab =>
      split
      · exact h
      · next hv =>
        refine (Memory.wf_cons_iff a v _).mpr ⟨hv, ?_, h⟩
        intro c hc
        rcases List.mem_cons.mp hc with rfl | hc
        · exact hab
        · exact Nat.lt_trans hab (hb c hc)
    · next hab =>
      split
      · next hEq =>
        split
        · exact hm
        · next hv => exact (Memory.wf_cons_iff b v m).mpr ⟨hv, hb, hm⟩
      · next hne =>
        exact (Memory.wf_cons_iff b w _).mpr ⟨hw, Memory.above_write hb (by omega), ih hm⟩

/-- A read after a write: the value written at its address, the old byte everywhere else. -/
theorem Memory.read_write {m : Memory} (h : Memory.wf m = true) (a x : Nat) (v : Byte) :
    Memory.read (Memory.write m a v) x = if x = a then v else Memory.read m x := by
  induction m with
  | nil =>
    simp only [Memory.write, Memory.read]
    by_cases hv : v = Memory.unlisted
    · rw [if_pos hv, hv]; simp
    · rw [if_neg hv]; simp only [Memory.read, eq_comm]
  | cons c m ih =>
    obtain ⟨b, w⟩ := c
    obtain ⟨hw, hb, hm⟩ := (Memory.wf_cons_iff b w m).mp h
    have habove : ∀ y, y ≤ b → Memory.read m y = Memory.unlisted := fun y hy =>
      Memory.read_above fun c hc => Nat.lt_of_le_of_lt hy (hb c hc)
    simp only [Memory.write]
    split
    · next hab =>
      by_cases hv : v = Memory.unlisted
      · by_cases hx : x = a
        · subst hx
          have hbx : ¬ b = x := by omega
          rw [if_pos hv, if_pos rfl, Memory.read, if_neg hbx, habove x (by omega), hv]
        · rw [if_pos hv, if_neg hx]
      · by_cases hx : x = a
        · simp [hv, hx, Memory.read]
        · have hxa : ¬ a = x := fun e => hx e.symm
          simp [hv, hx, hxa, Memory.read]
    · split
      · next hEq =>
        subst hEq
        by_cases hv : v = Memory.unlisted
        · by_cases hx : x = a
          · subst hx; simp [hv, habove]
          · have hxa : ¬ a = x := fun e => hx e.symm
            simp [hv, hx, hxa, Memory.read]
        · by_cases hx : x = a
          · simp [hv, hx, Memory.read]
          · have hxa : ¬ a = x := fun e => hx e.symm
            simp [hv, hx, hxa, Memory.read]
      · next hne =>
        by_cases hbx : b = x
        · have : ¬ x = a := by omega
          simp [Memory.read, hbx, this]
        · simp [Memory.read, hbx, ih hm]

theorem Memory.wf_writeBytes {m : Memory} (a : Nat) (bs : List Byte) (h : Memory.wf m = true) :
    Memory.wf (Memory.writeBytes m a bs) = true := by
  induction bs generalizing m a with
  | nil => exact h
  | cons b bs ih => exact ih (a + 1) (Memory.wf_write a b h)

/-- A read after a run of writes: the byte of the run inside it, the old byte outside it. -/
theorem Memory.read_writeBytes {m : Memory} (h : Memory.wf m = true) (a x : Nat) (bs : List Byte) :
    Memory.read (Memory.writeBytes m a bs) x
      = if a ≤ x ∧ x < a + bs.length then bs.getD (x - a) Memory.unlisted else Memory.read m x := by
  induction bs generalizing m a with
  | nil => simp [Memory.writeBytes]
  | cons b bs ih =>
    simp only [Memory.writeBytes, ih (Memory.wf_write a b h), Memory.read_write h, List.length_cons]
    by_cases hx : x = a
    · subst hx
      rw [if_neg (show ¬ (x + 1 ≤ x ∧ x < x + 1 + bs.length) by omega)]
      simp
    · by_cases hin : a + 1 ≤ x ∧ x < a + 1 + bs.length
      · have h2 : a ≤ x ∧ x < a + (bs.length + 1) := by omega
        have h3 : x - a = (x - (a + 1)) + 1 := by omega
        rw [if_pos hin, if_pos h2, h3, List.getD_cons_succ]
      · have h2 : ¬ (a ≤ x ∧ x < a + (bs.length + 1)) := by omega
        rw [if_neg hin, if_neg h2, if_neg hx]

/-- The zero fill is a run of writes of 0. -/
theorem Memory.zeroFill_eq (m : Memory) (a n : Nat) :
    Memory.zeroFill m a n = Memory.writeBytes m a (List.replicate n 0#8) := by
  induction n generalizing m a with
  | zero => rfl
  | succ n ih => simp [Memory.zeroFill, Memory.writeBytes, List.replicate_succ, ih]

theorem Memory.wf_zeroFill {m : Memory} (a n : Nat) (h : Memory.wf m = true) :
    Memory.wf (Memory.zeroFill m a n) = true := by
  rw [Memory.zeroFill_eq]; exact Memory.wf_writeBytes a _ h

theorem Memory.read_zeroFill {m : Memory} (h : Memory.wf m = true) (a n x : Nat) :
    Memory.read (Memory.zeroFill m a n) x = if a ≤ x ∧ x < a + n then 0#8 else Memory.read m x := by
  rw [Memory.zeroFill_eq, Memory.read_writeBytes h]
  simp only [List.length_replicate]
  by_cases hx : a ≤ x ∧ x < a + n
  · have : x - a < n := by omega
    simp [hx, List.getD_eq_getElem?_getD, this]
  · simp [hx]

@[simp] theorem Memory.readBytes_length (m : Memory) (a n : Nat) : (Memory.readBytes m a n).length = n := by
  induction n generalizing a with
  | zero => rfl
  | succ n ih => simp [Memory.readBytes, ih]

theorem Memory.readBytes_getElem (m : Memory) (a n i : Nat) (h : i < (Memory.readBytes m a n).length) :
    (Memory.readBytes m a n)[i] = Memory.read m (a + i) := by
  induction n generalizing a i with
  | zero => simp at h
  | succ n ih =>
    cases i with
    | zero => rfl
    | succ i =>
      have := ih (a + 1) i (by simpa using h)
      simp only [Memory.readBytes, List.getElem_cons_succ, this]
      congr 1; omega

/-- A run read back is the run that its bytes are read as. -/
theorem Memory.readBytes_eq {m : Memory} {a : Nat} {bs : List Byte}
    (h : ∀ i (hi : i < bs.length), Memory.read m (a + i) = bs[i]) : Memory.readBytes m a bs.length = bs := by
  refine List.ext_getElem (by simp) fun i h1 h2 => ?_
  rw [Memory.readBytes_getElem, h i h2]

end Sys2Proof.Machine
end

