-- ==== Sys2Proof/Laws/State.lean ====
section
/-! SUPPORT. What each named update leaves in each field of the state, true by unfolding: later proofs unfold no record
update. -/

namespace Sys2Proof.Machine

/-! ### txBytes -/

@[simp] theorem txBytes_fsm (bs : List Byte) (s : State) :
    (txBytes bs s).fsm = s.fsm := rfl
@[simp] theorem txBytes_hdr (bs : List Byte) (s : State) :
    (txBytes bs s).hdr = s.hdr := rfl
@[simp] theorem txBytes_hidx (bs : List Byte) (s : State) :
    (txBytes bs s).hidx = s.hidx := rfl
@[simp] theorem txBytes_reqCmd (bs : List Byte) (s : State) :
    (txBytes bs s).reqCmd = s.reqCmd := rfl
@[simp] theorem txBytes_reqArg0 (bs : List Byte) (s : State) :
    (txBytes bs s).reqArg0 = s.reqArg0 := rfl
@[simp] theorem txBytes_reqLen (bs : List Byte) (s : State) :
    (txBytes bs s).reqLen = s.reqLen := rfl
@[simp] theorem txBytes_reqMode (bs : List Byte) (s : State) :
    (txBytes bs s).reqMode = s.reqMode := rfl
@[simp] theorem txBytes_crcAcc (bs : List Byte) (s : State) :
    (txBytes bs s).crcAcc = s.crcAcc := rfl
@[simp] theorem txBytes_pcnt (bs : List Byte) (s : State) :
    (txBytes bs s).pcnt = s.pcnt := rfl
@[simp] theorem txBytes_phase (bs : List Byte) (s : State) :
    (txBytes bs s).phase = s.phase := rfl
@[simp] theorem txBytes_hold (bs : List Byte) (s : State) :
    (txBytes bs s).hold = s.hold := rfl
@[simp] theorem txBytes_pbuf (bs : List Byte) (s : State) :
    (txBytes bs s).pbuf = s.pbuf := rfl
@[simp] theorem txBytes_trl (bs : List Byte) (s : State) :
    (txBytes bs s).trl = s.trl := rfl
@[simp] theorem txBytes_tidx (bs : List Byte) (s : State) :
    (txBytes bs s).tidx = s.tidx := rfl
@[simp] theorem txBytes_respMode (bs : List Byte) (s : State) :
    (txBytes bs s).respMode = s.respMode := rfl
@[simp] theorem txBytes_dataExpected (bs : List Byte) (s : State) :
    (txBytes bs s).dataExpected = s.dataExpected := rfl
@[simp] theorem txBytes_pending (bs : List Byte) (s : State) :
    (txBytes bs s).pending = s.pending := rfl
@[simp] theorem txBytes_params (bs : List Byte) (s : State) :
    (txBytes bs s).params = s.params := rfl
@[simp] theorem txBytes_otpImage (bs : List Byte) (s : State) :
    (txBytes bs s).otpImage = s.otpImage := rfl
@[simp] theorem txBytes_otpBad (bs : List Byte) (s : State) :
    (txBytes bs s).otpBad = s.otpBad := rfl
@[simp] theorem txBytes_dest (bs : List Byte) (s : State) :
    (txBytes bs s).dest = s.dest := rfl
@[simp] theorem txBytes_caller (bs : List Byte) (s : State) :
    (txBytes bs s).caller = s.caller := rfl
@[simp] theorem txBytes_rx (bs : List Byte) (s : State) :
    (txBytes bs s).rx = s.rx := rfl
@[simp] theorem txBytes_tx (bs : List Byte) (s : State) :
    (txBytes bs s).tx = s.tx ++ bs.map TxEvent.byte := rfl
@[simp] theorem txBytes_inbox (bs : List Byte) (s : State) :
    (txBytes bs s).inbox = s.inbox := rfl
@[simp] theorem txBytes_returns (bs : List Byte) (s : State) :
    (txBytes bs s).returns = s.returns := rfl

/-! ### txFlush -/

@[simp] theorem txFlush_fsm (s : State) :
    (txFlush s).fsm = s.fsm := rfl
@[simp] theorem txFlush_hdr (s : State) :
    (txFlush s).hdr = s.hdr := rfl
@[simp] theorem txFlush_hidx (s : State) :
    (txFlush s).hidx = s.hidx := rfl
@[simp] theorem txFlush_reqCmd (s : State) :
    (txFlush s).reqCmd = s.reqCmd := rfl
@[simp] theorem txFlush_reqArg0 (s : State) :
    (txFlush s).reqArg0 = s.reqArg0 := rfl
@[simp] theorem txFlush_reqLen (s : State) :
    (txFlush s).reqLen = s.reqLen := rfl
@[simp] theorem txFlush_reqMode (s : State) :
    (txFlush s).reqMode = s.reqMode := rfl
@[simp] theorem txFlush_crcAcc (s : State) :
    (txFlush s).crcAcc = s.crcAcc := rfl
@[simp] theorem txFlush_pcnt (s : State) :
    (txFlush s).pcnt = s.pcnt := rfl
@[simp] theorem txFlush_phase (s : State) :
    (txFlush s).phase = s.phase := rfl
@[simp] theorem txFlush_hold (s : State) :
    (txFlush s).hold = s.hold := rfl
@[simp] theorem txFlush_pbuf (s : State) :
    (txFlush s).pbuf = s.pbuf := rfl
@[simp] theorem txFlush_trl (s : State) :
    (txFlush s).trl = s.trl := rfl
@[simp] theorem txFlush_tidx (s : State) :
    (txFlush s).tidx = s.tidx := rfl
@[simp] theorem txFlush_respMode (s : State) :
    (txFlush s).respMode = s.respMode := rfl
@[simp] theorem txFlush_dataExpected (s : State) :
    (txFlush s).dataExpected = s.dataExpected := rfl
@[simp] theorem txFlush_pending (s : State) :
    (txFlush s).pending = s.pending := rfl
@[simp] theorem txFlush_params (s : State) :
    (txFlush s).params = s.params := rfl
@[simp] theorem txFlush_otpImage (s : State) :
    (txFlush s).otpImage = s.otpImage := rfl
@[simp] theorem txFlush_otpBad (s : State) :
    (txFlush s).otpBad = s.otpBad := rfl
@[simp] theorem txFlush_dest (s : State) :
    (txFlush s).dest = s.dest := rfl
@[simp] theorem txFlush_caller (s : State) :
    (txFlush s).caller = s.caller := rfl
@[simp] theorem txFlush_rx (s : State) :
    (txFlush s).rx = s.rx := rfl
@[simp] theorem txFlush_tx (s : State) :
    (txFlush s).tx = s.tx ++ [TxEvent.flush] := rfl
@[simp] theorem txFlush_inbox (s : State) :
    (txFlush s).inbox = s.inbox := rfl
@[simp] theorem txFlush_returns (s : State) :
    (txFlush s).returns = s.returns := rfl

/-! ### returned -/

@[simp] theorem returned_fsm (r : OpResult) (s : State) :
    (returned r s).fsm = s.fsm := rfl
@[simp] theorem returned_hdr (r : OpResult) (s : State) :
    (returned r s).hdr = s.hdr := rfl
@[simp] theorem returned_hidx (r : OpResult) (s : State) :
    (returned r s).hidx = s.hidx := rfl
@[simp] theorem returned_reqCmd (r : OpResult) (s : State) :
    (returned r s).reqCmd = s.reqCmd := rfl
@[simp] theorem returned_reqArg0 (r : OpResult) (s : State) :
    (returned r s).reqArg0 = s.reqArg0 := rfl
@[simp] theorem returned_reqLen (r : OpResult) (s : State) :
    (returned r s).reqLen = s.reqLen := rfl
@[simp] theorem returned_reqMode (r : OpResult) (s : State) :
    (returned r s).reqMode = s.reqMode := rfl
@[simp] theorem returned_crcAcc (r : OpResult) (s : State) :
    (returned r s).crcAcc = s.crcAcc := rfl
@[simp] theorem returned_pcnt (r : OpResult) (s : State) :
    (returned r s).pcnt = s.pcnt := rfl
@[simp] theorem returned_phase (r : OpResult) (s : State) :
    (returned r s).phase = s.phase := rfl
@[simp] theorem returned_hold (r : OpResult) (s : State) :
    (returned r s).hold = s.hold := rfl
@[simp] theorem returned_pbuf (r : OpResult) (s : State) :
    (returned r s).pbuf = s.pbuf := rfl
@[simp] theorem returned_trl (r : OpResult) (s : State) :
    (returned r s).trl = s.trl := rfl
@[simp] theorem returned_tidx (r : OpResult) (s : State) :
    (returned r s).tidx = s.tidx := rfl
@[simp] theorem returned_respMode (r : OpResult) (s : State) :
    (returned r s).respMode = s.respMode := rfl
@[simp] theorem returned_dataExpected (r : OpResult) (s : State) :
    (returned r s).dataExpected = s.dataExpected := rfl
@[simp] theorem returned_pending (r : OpResult) (s : State) :
    (returned r s).pending = s.pending := rfl
@[simp] theorem returned_params (r : OpResult) (s : State) :
    (returned r s).params = s.params := rfl
@[simp] theorem returned_otpImage (r : OpResult) (s : State) :
    (returned r s).otpImage = s.otpImage := rfl
@[simp] theorem returned_otpBad (r : OpResult) (s : State) :
    (returned r s).otpBad = s.otpBad := rfl
@[simp] theorem returned_dest (r : OpResult) (s : State) :
    (returned r s).dest = s.dest := rfl
@[simp] theorem returned_caller (r : OpResult) (s : State) :
    (returned r s).caller = s.caller := rfl
@[simp] theorem returned_rx (r : OpResult) (s : State) :
    (returned r s).rx = s.rx := rfl
@[simp] theorem returned_tx (r : OpResult) (s : State) :
    (returned r s).tx = s.tx := rfl
@[simp] theorem returned_inbox (r : OpResult) (s : State) :
    (returned r s).inbox = s.inbox := rfl
@[simp] theorem returned_returns (r : OpResult) (s : State) :
    (returned r s).returns = s.returns ++ [r] := rfl

/-! ### respond -/

@[simp] theorem respond_fsm (k : Kind) (a : U32) (p : List Byte) (s : State) :
    (respond k a p s).fsm = s.fsm := rfl
@[simp] theorem respond_hdr (k : Kind) (a : U32) (p : List Byte) (s : State) :
    (respond k a p s).hdr = s.hdr := rfl
@[simp] theorem respond_hidx (k : Kind) (a : U32) (p : List Byte) (s : State) :
    (respond k a p s).hidx = s.hidx := rfl
@[simp] theorem respond_reqCmd (k : Kind) (a : U32) (p : List Byte) (s : State) :
    (respond k a p s).reqCmd = s.reqCmd := rfl
@[simp] theorem respond_reqArg0 (k : Kind) (a : U32) (p : List Byte) (s : State) :
    (respond k a p s).reqArg0 = s.reqArg0 := rfl
@[simp] theorem respond_reqLen (k : Kind) (a : U32) (p : List Byte) (s : State) :
    (respond k a p s).reqLen = s.reqLen := rfl
@[simp] theorem respond_reqMode (k : Kind) (a : U32) (p : List Byte) (s : State) :
    (respond k a p s).reqMode = s.reqMode := rfl
@[simp] theorem respond_crcAcc (k : Kind) (a : U32) (p : List Byte) (s : State) :
    (respond k a p s).crcAcc = s.crcAcc := rfl
@[simp] theorem respond_pcnt (k : Kind) (a : U32) (p : List Byte) (s : State) :
    (respond k a p s).pcnt = s.pcnt := rfl
@[simp] theorem respond_phase (k : Kind) (a : U32) (p : List Byte) (s : State) :
    (respond k a p s).phase = s.phase := rfl
@[simp] theorem respond_hold (k : Kind) (a : U32) (p : List Byte) (s : State) :
    (respond k a p s).hold = s.hold := rfl
@[simp] theorem respond_pbuf (k : Kind) (a : U32) (p : List Byte) (s : State) :
    (respond k a p s).pbuf = s.pbuf := rfl
@[simp] theorem respond_trl (k : Kind) (a : U32) (p : List Byte) (s : State) :
    (respond k a p s).trl = s.trl := rfl
@[simp] theorem respond_tidx (k : Kind) (a : U32) (p : List Byte) (s : State) :
    (respond k a p s).tidx = s.tidx := rfl
@[simp] theorem respond_respMode (k : Kind) (a : U32) (p : List Byte) (s : State) :
    (respond k a p s).respMode = s.respMode := rfl
@[simp] theorem respond_dataExpected (k : Kind) (a : U32) (p : List Byte) (s : State) :
    (respond k a p s).dataExpected = s.dataExpected := rfl
@[simp] theorem respond_pending (k : Kind) (a : U32) (p : List Byte) (s : State) :
    (respond k a p s).pending = s.pending := rfl
@[simp] theorem respond_params (k : Kind) (a : U32) (p : List Byte) (s : State) :
    (respond k a p s).params = s.params := rfl
@[simp] theorem respond_otpImage (k : Kind) (a : U32) (p : List Byte) (s : State) :
    (respond k a p s).otpImage = s.otpImage := rfl
@[simp] theorem respond_otpBad (k : Kind) (a : U32) (p : List Byte) (s : State) :
    (respond k a p s).otpBad = s.otpBad := rfl
@[simp] theorem respond_dest (k : Kind) (a : U32) (p : List Byte) (s : State) :
    (respond k a p s).dest = s.dest := rfl
@[simp] theorem respond_caller (k : Kind) (a : U32) (p : List Byte) (s : State) :
    (respond k a p s).caller = s.caller := rfl
@[simp] theorem respond_rx (k : Kind) (a : U32) (p : List Byte) (s : State) :
    (respond k a p s).rx = s.rx := rfl
@[simp] theorem respond_tx (k : Kind) (a : U32) (p : List Byte) (s : State) :
    (respond k a p s).tx = s.tx ++ (frameEncode (kindCmd k) a p s.respMode).map TxEvent.byte ++ [TxEvent.flush] := rfl
@[simp] theorem respond_inbox (k : Kind) (a : U32) (p : List Byte) (s : State) :
    (respond k a p s).inbox = s.inbox := rfl
@[simp] theorem respond_returns (k : Kind) (a : U32) (p : List Byte) (s : State) :
    (respond k a p s).returns = s.returns := rfl

/-! ### errorEntry -/

@[simp] theorem errorEntry_fsm (e : EngineError) (s : State) :
    (errorEntry e s).fsm = .awaitSof := rfl
@[simp] theorem errorEntry_hdr (e : EngineError) (s : State) :
    (errorEntry e s).hdr = s.hdr := rfl
@[simp] theorem errorEntry_hidx (e : EngineError) (s : State) :
    (errorEntry e s).hidx = s.hidx := rfl
@[simp] theorem errorEntry_reqCmd (e : EngineError) (s : State) :
    (errorEntry e s).reqCmd = s.reqCmd := rfl
@[simp] theorem errorEntry_reqArg0 (e : EngineError) (s : State) :
    (errorEntry e s).reqArg0 = s.reqArg0 := rfl
@[simp] theorem errorEntry_reqLen (e : EngineError) (s : State) :
    (errorEntry e s).reqLen = s.reqLen := rfl
@[simp] theorem errorEntry_reqMode (e : EngineError) (s : State) :
    (errorEntry e s).reqMode = s.reqMode := rfl
@[simp] theorem errorEntry_crcAcc (e : EngineError) (s : State) :
    (errorEntry e s).crcAcc = s.crcAcc := rfl
@[simp] theorem errorEntry_pcnt (e : EngineError) (s : State) :
    (errorEntry e s).pcnt = s.pcnt := rfl
@[simp] theorem errorEntry_phase (e : EngineError) (s : State) :
    (errorEntry e s).phase = s.phase := rfl
@[simp] theorem errorEntry_hold (e : EngineError) (s : State) :
    (errorEntry e s).hold = s.hold := rfl
@[simp] theorem errorEntry_pbuf (e : EngineError) (s : State) :
    (errorEntry e s).pbuf = s.pbuf := rfl
@[simp] theorem errorEntry_trl (e : EngineError) (s : State) :
    (errorEntry e s).trl = s.trl := rfl
@[simp] theorem errorEntry_tidx (e : EngineError) (s : State) :
    (errorEntry e s).tidx = s.tidx := rfl
@[simp] theorem errorEntry_respMode (e : EngineError) (s : State) :
    (errorEntry e s).respMode = s.respMode := rfl
@[simp] theorem errorEntry_dataExpected (e : EngineError) (s : State) :
    (errorEntry e s).dataExpected = s.dataExpected := rfl
@[simp] theorem errorEntry_pending (e : EngineError) (s : State) :
    (errorEntry e s).pending = s.pending := rfl
@[simp] theorem errorEntry_params (e : EngineError) (s : State) :
    (errorEntry e s).params = s.params := rfl
@[simp] theorem errorEntry_otpImage (e : EngineError) (s : State) :
    (errorEntry e s).otpImage = s.otpImage := rfl
@[simp] theorem errorEntry_otpBad (e : EngineError) (s : State) :
    (errorEntry e s).otpBad = s.otpBad := rfl
@[simp] theorem errorEntry_dest (e : EngineError) (s : State) :
    (errorEntry e s).dest = s.dest := rfl
@[simp] theorem errorEntry_caller (e : EngineError) (s : State) :
    (errorEntry e s).caller = s.caller := rfl
@[simp] theorem errorEntry_rx (e : EngineError) (s : State) :
    (errorEntry e s).rx = s.rx := rfl
@[simp] theorem errorEntry_tx (e : EngineError) (s : State) :
    (errorEntry e s).tx = s.tx ++ (frameEncode Config.cmdNack 0#32 (errorReason e) s.respMode).map TxEvent.byte ++ [TxEvent.flush] := rfl
@[simp] theorem errorEntry_inbox (e : EngineError) (s : State) :
    (errorEntry e s).inbox = s.inbox := rfl
@[simp] theorem errorEntry_returns (e : EngineError) (s : State) :
    (errorEntry e s).returns = s.returns := rfl

/-! ### otsReturn -/

@[simp] theorem otsReturn_fsm (r : Status × Memory) (s : State) :
    (otsReturn r s).fsm = s.fsm := rfl
@[simp] theorem otsReturn_hdr (r : Status × Memory) (s : State) :
    (otsReturn r s).hdr = s.hdr := rfl
@[simp] theorem otsReturn_hidx (r : Status × Memory) (s : State) :
    (otsReturn r s).hidx = s.hidx := rfl
@[simp] theorem otsReturn_reqCmd (r : Status × Memory) (s : State) :
    (otsReturn r s).reqCmd = s.reqCmd := rfl
@[simp] theorem otsReturn_reqArg0 (r : Status × Memory) (s : State) :
    (otsReturn r s).reqArg0 = s.reqArg0 := rfl
@[simp] theorem otsReturn_reqLen (r : Status × Memory) (s : State) :
    (otsReturn r s).reqLen = s.reqLen := rfl
@[simp] theorem otsReturn_reqMode (r : Status × Memory) (s : State) :
    (otsReturn r s).reqMode = s.reqMode := rfl
@[simp] theorem otsReturn_crcAcc (r : Status × Memory) (s : State) :
    (otsReturn r s).crcAcc = s.crcAcc := rfl
@[simp] theorem otsReturn_pcnt (r : Status × Memory) (s : State) :
    (otsReturn r s).pcnt = s.pcnt := rfl
@[simp] theorem otsReturn_phase (r : Status × Memory) (s : State) :
    (otsReturn r s).phase = s.phase := rfl
@[simp] theorem otsReturn_hold (r : Status × Memory) (s : State) :
    (otsReturn r s).hold = s.hold := rfl
@[simp] theorem otsReturn_pbuf (r : Status × Memory) (s : State) :
    (otsReturn r s).pbuf = s.pbuf := rfl
@[simp] theorem otsReturn_trl (r : Status × Memory) (s : State) :
    (otsReturn r s).trl = s.trl := rfl
@[simp] theorem otsReturn_tidx (r : Status × Memory) (s : State) :
    (otsReturn r s).tidx = s.tidx := rfl
@[simp] theorem otsReturn_respMode (r : Status × Memory) (s : State) :
    (otsReturn r s).respMode = s.respMode := rfl
@[simp] theorem otsReturn_dataExpected (r : Status × Memory) (s : State) :
    (otsReturn r s).dataExpected = s.dataExpected := rfl
@[simp] theorem otsReturn_pending (r : Status × Memory) (s : State) :
    (otsReturn r s).pending = s.pending := rfl
@[simp] theorem otsReturn_params (r : Status × Memory) (s : State) :
    (otsReturn r s).params = s.params := rfl
@[simp] theorem otsReturn_otpImage (r : Status × Memory) (s : State) :
    (otsReturn r s).otpImage = s.otpImage := rfl
@[simp] theorem otsReturn_otpBad (r : Status × Memory) (s : State) :
    (otsReturn r s).otpBad = s.otpBad := rfl
@[simp] theorem otsReturn_dest (r : Status × Memory) (s : State) :
    (otsReturn r s).dest = s.dest := rfl
@[simp] theorem otsReturn_caller (r : Status × Memory) (s : State) :
    (otsReturn r s).caller = r.2 := rfl
@[simp] theorem otsReturn_rx (r : Status × Memory) (s : State) :
    (otsReturn r s).rx = s.rx := rfl
@[simp] theorem otsReturn_tx (r : Status × Memory) (s : State) :
    (otsReturn r s).tx = s.tx := rfl
@[simp] theorem otsReturn_inbox (r : Status × Memory) (s : State) :
    (otsReturn r s).inbox = s.inbox := rfl
@[simp] theorem otsReturn_returns (r : Status × Memory) (s : State) :
    (otsReturn r s).returns = s.returns ++ [.status r.1] := rfl

/-! ### storeHeader -/

@[simp] theorem storeHeader_fsm (b : Byte) (s : State) :
    (storeHeader b s).fsm = s.fsm := rfl
@[simp] theorem storeHeader_hdr (b : Byte) (s : State) :
    (storeHeader b s).hdr = s.hdr.setIfInBounds s.hidx b := rfl
@[simp] theorem storeHeader_hidx (b : Byte) (s : State) :
    (storeHeader b s).hidx = s.hidx + 1 := rfl
@[simp] theorem storeHeader_reqCmd (b : Byte) (s : State) :
    (storeHeader b s).reqCmd = s.reqCmd := rfl
@[simp] theorem storeHeader_reqArg0 (b : Byte) (s : State) :
    (storeHeader b s).reqArg0 = s.reqArg0 := rfl
@[simp] theorem storeHeader_reqLen (b : Byte) (s : State) :
    (storeHeader b s).reqLen = s.reqLen := rfl
@[simp] theorem storeHeader_reqMode (b : Byte) (s : State) :
    (storeHeader b s).reqMode = s.reqMode := rfl
@[simp] theorem storeHeader_crcAcc (b : Byte) (s : State) :
    (storeHeader b s).crcAcc = s.crcAcc := rfl
@[simp] theorem storeHeader_pcnt (b : Byte) (s : State) :
    (storeHeader b s).pcnt = s.pcnt := rfl
@[simp] theorem storeHeader_phase (b : Byte) (s : State) :
    (storeHeader b s).phase = s.phase := rfl
@[simp] theorem storeHeader_hold (b : Byte) (s : State) :
    (storeHeader b s).hold = s.hold := rfl
@[simp] theorem storeHeader_pbuf (b : Byte) (s : State) :
    (storeHeader b s).pbuf = s.pbuf := rfl
@[simp] theorem storeHeader_trl (b : Byte) (s : State) :
    (storeHeader b s).trl = s.trl := rfl
@[simp] theorem storeHeader_tidx (b : Byte) (s : State) :
    (storeHeader b s).tidx = s.tidx := rfl
@[simp] theorem storeHeader_respMode (b : Byte) (s : State) :
    (storeHeader b s).respMode = s.respMode := rfl
@[simp] theorem storeHeader_dataExpected (b : Byte) (s : State) :
    (storeHeader b s).dataExpected = s.dataExpected := rfl
@[simp] theorem storeHeader_pending (b : Byte) (s : State) :
    (storeHeader b s).pending = s.pending := rfl
@[simp] theorem storeHeader_params (b : Byte) (s : State) :
    (storeHeader b s).params = s.params := rfl
@[simp] theorem storeHeader_otpImage (b : Byte) (s : State) :
    (storeHeader b s).otpImage = s.otpImage := rfl
@[simp] theorem storeHeader_otpBad (b : Byte) (s : State) :
    (storeHeader b s).otpBad = s.otpBad := rfl
@[simp] theorem storeHeader_dest (b : Byte) (s : State) :
    (storeHeader b s).dest = s.dest := rfl
@[simp] theorem storeHeader_caller (b : Byte) (s : State) :
    (storeHeader b s).caller = s.caller := rfl
@[simp] theorem storeHeader_rx (b : Byte) (s : State) :
    (storeHeader b s).rx = s.rx := rfl
@[simp] theorem storeHeader_tx (b : Byte) (s : State) :
    (storeHeader b s).tx = s.tx := rfl
@[simp] theorem storeHeader_inbox (b : Byte) (s : State) :
    (storeHeader b s).inbox = s.inbox := rfl
@[simp] theorem storeHeader_returns (b : Byte) (s : State) :
    (storeHeader b s).returns = s.returns := rfl

/-! ### storeTrailer -/

@[simp] theorem storeTrailer_fsm (b : Byte) (s : State) :
    (storeTrailer b s).fsm = s.fsm := rfl
@[simp] theorem storeTrailer_hdr (b : Byte) (s : State) :
    (storeTrailer b s).hdr = s.hdr := rfl
@[simp] theorem storeTrailer_hidx (b : Byte) (s : State) :
    (storeTrailer b s).hidx = s.hidx := rfl
@[simp] theorem storeTrailer_reqCmd (b : Byte) (s : State) :
    (storeTrailer b s).reqCmd = s.reqCmd := rfl
@[simp] theorem storeTrailer_reqArg0 (b : Byte) (s : State) :
    (storeTrailer b s).reqArg0 = s.reqArg0 := rfl
@[simp] theorem storeTrailer_reqLen (b : Byte) (s : State) :
    (storeTrailer b s).reqLen = s.reqLen := rfl
@[simp] theorem storeTrailer_reqMode (b : Byte) (s : State) :
    (storeTrailer b s).reqMode = s.reqMode := rfl
@[simp] theorem storeTrailer_crcAcc (b : Byte) (s : State) :
    (storeTrailer b s).crcAcc = s.crcAcc := rfl
@[simp] theorem storeTrailer_pcnt (b : Byte) (s : State) :
    (storeTrailer b s).pcnt = s.pcnt := rfl
@[simp] theorem storeTrailer_phase (b : Byte) (s : State) :
    (storeTrailer b s).phase = s.phase := rfl
@[simp] theorem storeTrailer_hold (b : Byte) (s : State) :
    (storeTrailer b s).hold = s.hold := rfl
@[simp] theorem storeTrailer_pbuf (b : Byte) (s : State) :
    (storeTrailer b s).pbuf = s.pbuf := rfl
@[simp] theorem storeTrailer_trl (b : Byte) (s : State) :
    (storeTrailer b s).trl = s.trl.setIfInBounds s.tidx b := rfl
@[simp] theorem storeTrailer_tidx (b : Byte) (s : State) :
    (storeTrailer b s).tidx = s.tidx + 1 := rfl
@[simp] theorem storeTrailer_respMode (b : Byte) (s : State) :
    (storeTrailer b s).respMode = s.respMode := rfl
@[simp] theorem storeTrailer_dataExpected (b : Byte) (s : State) :
    (storeTrailer b s).dataExpected = s.dataExpected := rfl
@[simp] theorem storeTrailer_pending (b : Byte) (s : State) :
    (storeTrailer b s).pending = s.pending := rfl
@[simp] theorem storeTrailer_params (b : Byte) (s : State) :
    (storeTrailer b s).params = s.params := rfl
@[simp] theorem storeTrailer_otpImage (b : Byte) (s : State) :
    (storeTrailer b s).otpImage = s.otpImage := rfl
@[simp] theorem storeTrailer_otpBad (b : Byte) (s : State) :
    (storeTrailer b s).otpBad = s.otpBad := rfl
@[simp] theorem storeTrailer_dest (b : Byte) (s : State) :
    (storeTrailer b s).dest = s.dest := rfl
@[simp] theorem storeTrailer_caller (b : Byte) (s : State) :
    (storeTrailer b s).caller = s.caller := rfl
@[simp] theorem storeTrailer_rx (b : Byte) (s : State) :
    (storeTrailer b s).rx = s.rx := rfl
@[simp] theorem storeTrailer_tx (b : Byte) (s : State) :
    (storeTrailer b s).tx = s.tx := rfl
@[simp] theorem storeTrailer_inbox (b : Byte) (s : State) :
    (storeTrailer b s).inbox = s.inbox := rfl
@[simp] theorem storeTrailer_returns (b : Byte) (s : State) :
    (storeTrailer b s).returns = s.returns := rfl

/-! ### foldCrc -/

@[simp] theorem foldCrc_fsm (b : Byte) (s : State) :
    (foldCrc b s).fsm = s.fsm := rfl
@[simp] theorem foldCrc_hdr (b : Byte) (s : State) :
    (foldCrc b s).hdr = s.hdr := rfl
@[simp] theorem foldCrc_hidx (b : Byte) (s : State) :
    (foldCrc b s).hidx = s.hidx := rfl
@[simp] theorem foldCrc_reqCmd (b : Byte) (s : State) :
    (foldCrc b s).reqCmd = s.reqCmd := rfl
@[simp] theorem foldCrc_reqArg0 (b : Byte) (s : State) :
    (foldCrc b s).reqArg0 = s.reqArg0 := rfl
@[simp] theorem foldCrc_reqLen (b : Byte) (s : State) :
    (foldCrc b s).reqLen = s.reqLen := rfl
@[simp] theorem foldCrc_reqMode (b : Byte) (s : State) :
    (foldCrc b s).reqMode = s.reqMode := rfl
@[simp] theorem foldCrc_crcAcc (b : Byte) (s : State) :
    (foldCrc b s).crcAcc = crc32c s.crcAcc [b] := rfl
@[simp] theorem foldCrc_pcnt (b : Byte) (s : State) :
    (foldCrc b s).pcnt = s.pcnt := rfl
@[simp] theorem foldCrc_phase (b : Byte) (s : State) :
    (foldCrc b s).phase = s.phase := rfl
@[simp] theorem foldCrc_hold (b : Byte) (s : State) :
    (foldCrc b s).hold = s.hold := rfl
@[simp] theorem foldCrc_pbuf (b : Byte) (s : State) :
    (foldCrc b s).pbuf = s.pbuf := rfl
@[simp] theorem foldCrc_trl (b : Byte) (s : State) :
    (foldCrc b s).trl = s.trl := rfl
@[simp] theorem foldCrc_tidx (b : Byte) (s : State) :
    (foldCrc b s).tidx = s.tidx := rfl
@[simp] theorem foldCrc_respMode (b : Byte) (s : State) :
    (foldCrc b s).respMode = s.respMode := rfl
@[simp] theorem foldCrc_dataExpected (b : Byte) (s : State) :
    (foldCrc b s).dataExpected = s.dataExpected := rfl
@[simp] theorem foldCrc_pending (b : Byte) (s : State) :
    (foldCrc b s).pending = s.pending := rfl
@[simp] theorem foldCrc_params (b : Byte) (s : State) :
    (foldCrc b s).params = s.params := rfl
@[simp] theorem foldCrc_otpImage (b : Byte) (s : State) :
    (foldCrc b s).otpImage = s.otpImage := rfl
@[simp] theorem foldCrc_otpBad (b : Byte) (s : State) :
    (foldCrc b s).otpBad = s.otpBad := rfl
@[simp] theorem foldCrc_dest (b : Byte) (s : State) :
    (foldCrc b s).dest = s.dest := rfl
@[simp] theorem foldCrc_caller (b : Byte) (s : State) :
    (foldCrc b s).caller = s.caller := rfl
@[simp] theorem foldCrc_rx (b : Byte) (s : State) :
    (foldCrc b s).rx = s.rx := rfl
@[simp] theorem foldCrc_tx (b : Byte) (s : State) :
    (foldCrc b s).tx = s.tx := rfl
@[simp] theorem foldCrc_inbox (b : Byte) (s : State) :
    (foldCrc b s).inbox = s.inbox := rfl
@[simp] theorem foldCrc_returns (b : Byte) (s : State) :
    (foldCrc b s).returns = s.returns := rfl

/-! ### storePayload -/

@[simp] theorem storePayload_fsm (v : Byte) (s : State) :
    (storePayload v s).fsm = s.fsm := rfl
@[simp] theorem storePayload_hdr (v : Byte) (s : State) :
    (storePayload v s).hdr = s.hdr := rfl
@[simp] theorem storePayload_hidx (v : Byte) (s : State) :
    (storePayload v s).hidx = s.hidx := rfl
@[simp] theorem storePayload_reqCmd (v : Byte) (s : State) :
    (storePayload v s).reqCmd = s.reqCmd := rfl
@[simp] theorem storePayload_reqArg0 (v : Byte) (s : State) :
    (storePayload v s).reqArg0 = s.reqArg0 := rfl
@[simp] theorem storePayload_reqLen (v : Byte) (s : State) :
    (storePayload v s).reqLen = s.reqLen := rfl
@[simp] theorem storePayload_reqMode (v : Byte) (s : State) :
    (storePayload v s).reqMode = s.reqMode := rfl
@[simp] theorem storePayload_crcAcc (v : Byte) (s : State) :
    (storePayload v s).crcAcc = s.crcAcc := rfl
@[simp] theorem storePayload_pcnt (v : Byte) (s : State) :
    (storePayload v s).pcnt = s.pcnt + 1 := rfl
@[simp] theorem storePayload_phase (v : Byte) (s : State) :
    (storePayload v s).phase = s.phase := rfl
@[simp] theorem storePayload_hold (v : Byte) (s : State) :
    (storePayload v s).hold = s.hold := rfl
@[simp] theorem storePayload_pbuf (v : Byte) (s : State) :
    (storePayload v s).pbuf = bufferWrite s.params.payloadMax s.pbuf s.pcnt v := rfl
@[simp] theorem storePayload_trl (v : Byte) (s : State) :
    (storePayload v s).trl = s.trl := rfl
@[simp] theorem storePayload_tidx (v : Byte) (s : State) :
    (storePayload v s).tidx = s.tidx := rfl
@[simp] theorem storePayload_respMode (v : Byte) (s : State) :
    (storePayload v s).respMode = s.respMode := rfl
@[simp] theorem storePayload_dataExpected (v : Byte) (s : State) :
    (storePayload v s).dataExpected = s.dataExpected := rfl
@[simp] theorem storePayload_pending (v : Byte) (s : State) :
    (storePayload v s).pending = s.pending := rfl
@[simp] theorem storePayload_params (v : Byte) (s : State) :
    (storePayload v s).params = s.params := rfl
@[simp] theorem storePayload_otpImage (v : Byte) (s : State) :
    (storePayload v s).otpImage = s.otpImage := rfl
@[simp] theorem storePayload_otpBad (v : Byte) (s : State) :
    (storePayload v s).otpBad = s.otpBad := rfl
@[simp] theorem storePayload_dest (v : Byte) (s : State) :
    (storePayload v s).dest = s.dest := rfl
@[simp] theorem storePayload_caller (v : Byte) (s : State) :
    (storePayload v s).caller = s.caller := rfl
@[simp] theorem storePayload_rx (v : Byte) (s : State) :
    (storePayload v s).rx = s.rx := rfl
@[simp] theorem storePayload_tx (v : Byte) (s : State) :
    (storePayload v s).tx = s.tx := rfl
@[simp] theorem storePayload_inbox (v : Byte) (s : State) :
    (storePayload v s).inbox = s.inbox := rfl
@[simp] theorem storePayload_returns (v : Byte) (s : State) :
    (storePayload v s).returns = s.returns := rfl

/-! ### place -/

@[simp] theorem place_fsm (t : Transaction) (s : State) :
    (place t s).fsm = s.fsm := rfl
@[simp] theorem place_hdr (t : Transaction) (s : State) :
    (place t s).hdr = s.hdr := rfl
@[simp] theorem place_hidx (t : Transaction) (s : State) :
    (place t s).hidx = s.hidx := rfl
@[simp] theorem place_reqCmd (t : Transaction) (s : State) :
    (place t s).reqCmd = s.reqCmd := rfl
@[simp] theorem place_reqArg0 (t : Transaction) (s : State) :
    (place t s).reqArg0 = s.reqArg0 := rfl
@[simp] theorem place_reqLen (t : Transaction) (s : State) :
    (place t s).reqLen = s.reqLen := rfl
@[simp] theorem place_reqMode (t : Transaction) (s : State) :
    (place t s).reqMode = s.reqMode := rfl
@[simp] theorem place_crcAcc (t : Transaction) (s : State) :
    (place t s).crcAcc = s.crcAcc := rfl
@[simp] theorem place_pcnt (t : Transaction) (s : State) :
    (place t s).pcnt = s.pcnt := rfl
@[simp] theorem place_phase (t : Transaction) (s : State) :
    (place t s).phase = s.phase := rfl
@[simp] theorem place_hold (t : Transaction) (s : State) :
    (place t s).hold = s.hold := rfl
@[simp] theorem place_pbuf (t : Transaction) (s : State) :
    (place t s).pbuf = s.pbuf := rfl
@[simp] theorem place_trl (t : Transaction) (s : State) :
    (place t s).trl = s.trl := rfl
@[simp] theorem place_tidx (t : Transaction) (s : State) :
    (place t s).tidx = s.tidx := rfl
@[simp] theorem place_respMode (t : Transaction) (s : State) :
    (place t s).respMode = s.respMode := rfl
@[simp] theorem place_dataExpected (t : Transaction) (s : State) :
    (place t s).dataExpected = s.dataExpected := rfl
@[simp] theorem place_pending (t : Transaction) (s : State) :
    (place t s).pending = s.pending := rfl
@[simp] theorem place_params (t : Transaction) (s : State) :
    (place t s).params = s.params := rfl
@[simp] theorem place_otpImage (t : Transaction) (s : State) :
    (place t s).otpImage = s.otpImage := rfl
@[simp] theorem place_otpBad (t : Transaction) (s : State) :
    (place t s).otpBad = s.otpBad := rfl
@[simp] theorem place_dest (t : Transaction) (s : State) :
    (place t s).dest = s.dest := rfl
@[simp] theorem place_caller (t : Transaction) (s : State) :
    (place t s).caller = s.caller := rfl
@[simp] theorem place_rx (t : Transaction) (s : State) :
    (place t s).rx = s.rx := rfl
@[simp] theorem place_tx (t : Transaction) (s : State) :
    (place t s).tx = s.tx := rfl
@[simp] theorem place_inbox (t : Transaction) (s : State) :
    (place t s).inbox = t :: s.inbox.filter (fun u => !isReset u) := rfl
@[simp] theorem place_returns (t : Transaction) (s : State) :
    (place t s).returns = s.returns := rfl

/-! ### goto -/

@[simp] theorem goto_fsm (f : Fsm) (s : State) :
    (goto f s).fsm = f := rfl
@[simp] theorem goto_hdr (f : Fsm) (s : State) :
    (goto f s).hdr = s.hdr := rfl
@[simp] theorem goto_hidx (f : Fsm) (s : State) :
    (goto f s).hidx = s.hidx := rfl
@[simp] theorem goto_reqCmd (f : Fsm) (s : State) :
    (goto f s).reqCmd = s.reqCmd := rfl
@[simp] theorem goto_reqArg0 (f : Fsm) (s : State) :
    (goto f s).reqArg0 = s.reqArg0 := rfl
@[simp] theorem goto_reqLen (f : Fsm) (s : State) :
    (goto f s).reqLen = s.reqLen := rfl
@[simp] theorem goto_reqMode (f : Fsm) (s : State) :
    (goto f s).reqMode = s.reqMode := rfl
@[simp] theorem goto_crcAcc (f : Fsm) (s : State) :
    (goto f s).crcAcc = s.crcAcc := rfl
@[simp] theorem goto_pcnt (f : Fsm) (s : State) :
    (goto f s).pcnt = s.pcnt := rfl
@[simp] theorem goto_phase (f : Fsm) (s : State) :
    (goto f s).phase = s.phase := rfl
@[simp] theorem goto_hold (f : Fsm) (s : State) :
    (goto f s).hold = s.hold := rfl
@[simp] theorem goto_pbuf (f : Fsm) (s : State) :
    (goto f s).pbuf = s.pbuf := rfl
@[simp] theorem goto_trl (f : Fsm) (s : State) :
    (goto f s).trl = s.trl := rfl
@[simp] theorem goto_tidx (f : Fsm) (s : State) :
    (goto f s).tidx = s.tidx := rfl
@[simp] theorem goto_respMode (f : Fsm) (s : State) :
    (goto f s).respMode = s.respMode := rfl
@[simp] theorem goto_dataExpected (f : Fsm) (s : State) :
    (goto f s).dataExpected = s.dataExpected := rfl
@[simp] theorem goto_pending (f : Fsm) (s : State) :
    (goto f s).pending = s.pending := rfl
@[simp] theorem goto_params (f : Fsm) (s : State) :
    (goto f s).params = s.params := rfl
@[simp] theorem goto_otpImage (f : Fsm) (s : State) :
    (goto f s).otpImage = s.otpImage := rfl
@[simp] theorem goto_otpBad (f : Fsm) (s : State) :
    (goto f s).otpBad = s.otpBad := rfl
@[simp] theorem goto_dest (f : Fsm) (s : State) :
    (goto f s).dest = s.dest := rfl
@[simp] theorem goto_caller (f : Fsm) (s : State) :
    (goto f s).caller = s.caller := rfl
@[simp] theorem goto_rx (f : Fsm) (s : State) :
    (goto f s).rx = s.rx := rfl
@[simp] theorem goto_tx (f : Fsm) (s : State) :
    (goto f s).tx = s.tx := rfl
@[simp] theorem goto_inbox (f : Fsm) (s : State) :
    (goto f s).inbox = s.inbox := rfl
@[simp] theorem goto_returns (f : Fsm) (s : State) :
    (goto f s).returns = s.returns := rfl

/-! ### holdHigh -/

@[simp] theorem holdHigh_fsm (b : Byte) (s : State) :
    (holdHigh b s).fsm = s.fsm := rfl
@[simp] theorem holdHigh_hdr (b : Byte) (s : State) :
    (holdHigh b s).hdr = s.hdr := rfl
@[simp] theorem holdHigh_hidx (b : Byte) (s : State) :
    (holdHigh b s).hidx = s.hidx := rfl
@[simp] theorem holdHigh_reqCmd (b : Byte) (s : State) :
    (holdHigh b s).reqCmd = s.reqCmd := rfl
@[simp] theorem holdHigh_reqArg0 (b : Byte) (s : State) :
    (holdHigh b s).reqArg0 = s.reqArg0 := rfl
@[simp] theorem holdHigh_reqLen (b : Byte) (s : State) :
    (holdHigh b s).reqLen = s.reqLen := rfl
@[simp] theorem holdHigh_reqMode (b : Byte) (s : State) :
    (holdHigh b s).reqMode = s.reqMode := rfl
@[simp] theorem holdHigh_crcAcc (b : Byte) (s : State) :
    (holdHigh b s).crcAcc = s.crcAcc := rfl
@[simp] theorem holdHigh_pcnt (b : Byte) (s : State) :
    (holdHigh b s).pcnt = s.pcnt := rfl
@[simp] theorem holdHigh_phase (b : Byte) (s : State) :
    (holdHigh b s).phase = 1 := rfl
@[simp] theorem holdHigh_hold (b : Byte) (s : State) :
    (holdHigh b s).hold = b := rfl
@[simp] theorem holdHigh_pbuf (b : Byte) (s : State) :
    (holdHigh b s).pbuf = s.pbuf := rfl
@[simp] theorem holdHigh_trl (b : Byte) (s : State) :
    (holdHigh b s).trl = s.trl := rfl
@[simp] theorem holdHigh_tidx (b : Byte) (s : State) :
    (holdHigh b s).tidx = s.tidx := rfl
@[simp] theorem holdHigh_respMode (b : Byte) (s : State) :
    (holdHigh b s).respMode = s.respMode := rfl
@[simp] theorem holdHigh_dataExpected (b : Byte) (s : State) :
    (holdHigh b s).dataExpected = s.dataExpected := rfl
@[simp] theorem holdHigh_pending (b : Byte) (s : State) :
    (holdHigh b s).pending = s.pending := rfl
@[simp] theorem holdHigh_params (b : Byte) (s : State) :
    (holdHigh b s).params = s.params := rfl
@[simp] theorem holdHigh_otpImage (b : Byte) (s : State) :
    (holdHigh b s).otpImage = s.otpImage := rfl
@[simp] theorem holdHigh_otpBad (b : Byte) (s : State) :
    (holdHigh b s).otpBad = s.otpBad := rfl
@[simp] theorem holdHigh_dest (b : Byte) (s : State) :
    (holdHigh b s).dest = s.dest := rfl
@[simp] theorem holdHigh_caller (b : Byte) (s : State) :
    (holdHigh b s).caller = s.caller := rfl
@[simp] theorem holdHigh_rx (b : Byte) (s : State) :
    (holdHigh b s).rx = s.rx := rfl
@[simp] theorem holdHigh_tx (b : Byte) (s : State) :
    (holdHigh b s).tx = s.tx := rfl
@[simp] theorem holdHigh_inbox (b : Byte) (s : State) :
    (holdHigh b s).inbox = s.inbox := rfl
@[simp] theorem holdHigh_returns (b : Byte) (s : State) :
    (holdHigh b s).returns = s.returns := rfl

/-! ### pairDone -/

@[simp] theorem pairDone_fsm (s : State) :
    (pairDone s).fsm = s.fsm := rfl
@[simp] theorem pairDone_hdr (s : State) :
    (pairDone s).hdr = s.hdr := rfl
@[simp] theorem pairDone_hidx (s : State) :
    (pairDone s).hidx = s.hidx := rfl
@[simp] theorem pairDone_reqCmd (s : State) :
    (pairDone s).reqCmd = s.reqCmd := rfl
@[simp] theorem pairDone_reqArg0 (s : State) :
    (pairDone s).reqArg0 = s.reqArg0 := rfl
@[simp] theorem pairDone_reqLen (s : State) :
    (pairDone s).reqLen = s.reqLen := rfl
@[simp] theorem pairDone_reqMode (s : State) :
    (pairDone s).reqMode = s.reqMode := rfl
@[simp] theorem pairDone_crcAcc (s : State) :
    (pairDone s).crcAcc = s.crcAcc := rfl
@[simp] theorem pairDone_pcnt (s : State) :
    (pairDone s).pcnt = s.pcnt := rfl
@[simp] theorem pairDone_phase (s : State) :
    (pairDone s).phase = 0 := rfl
@[simp] theorem pairDone_hold (s : State) :
    (pairDone s).hold = s.hold := rfl
@[simp] theorem pairDone_pbuf (s : State) :
    (pairDone s).pbuf = s.pbuf := rfl
@[simp] theorem pairDone_trl (s : State) :
    (pairDone s).trl = s.trl := rfl
@[simp] theorem pairDone_tidx (s : State) :
    (pairDone s).tidx = s.tidx := rfl
@[simp] theorem pairDone_respMode (s : State) :
    (pairDone s).respMode = s.respMode := rfl
@[simp] theorem pairDone_dataExpected (s : State) :
    (pairDone s).dataExpected = s.dataExpected := rfl
@[simp] theorem pairDone_pending (s : State) :
    (pairDone s).pending = s.pending := rfl
@[simp] theorem pairDone_params (s : State) :
    (pairDone s).params = s.params := rfl
@[simp] theorem pairDone_otpImage (s : State) :
    (pairDone s).otpImage = s.otpImage := rfl
@[simp] theorem pairDone_otpBad (s : State) :
    (pairDone s).otpBad = s.otpBad := rfl
@[simp] theorem pairDone_dest (s : State) :
    (pairDone s).dest = s.dest := rfl
@[simp] theorem pairDone_caller (s : State) :
    (pairDone s).caller = s.caller := rfl
@[simp] theorem pairDone_rx (s : State) :
    (pairDone s).rx = s.rx := rfl
@[simp] theorem pairDone_tx (s : State) :
    (pairDone s).tx = s.tx := rfl
@[simp] theorem pairDone_inbox (s : State) :
    (pairDone s).inbox = s.inbox := rfl
@[simp] theorem pairDone_returns (s : State) :
    (pairDone s).returns = s.returns := rfl

/-! ### clearPending -/

@[simp] theorem clearPending_fsm (s : State) :
    (clearPending s).fsm = s.fsm := rfl
@[simp] theorem clearPending_hdr (s : State) :
    (clearPending s).hdr = s.hdr := rfl
@[simp] theorem clearPending_hidx (s : State) :
    (clearPending s).hidx = s.hidx := rfl
@[simp] theorem clearPending_reqCmd (s : State) :
    (clearPending s).reqCmd = s.reqCmd := rfl
@[simp] theorem clearPending_reqArg0 (s : State) :
    (clearPending s).reqArg0 = s.reqArg0 := rfl
@[simp] theorem clearPending_reqLen (s : State) :
    (clearPending s).reqLen = s.reqLen := rfl
@[simp] theorem clearPending_reqMode (s : State) :
    (clearPending s).reqMode = s.reqMode := rfl
@[simp] theorem clearPending_crcAcc (s : State) :
    (clearPending s).crcAcc = s.crcAcc := rfl
@[simp] theorem clearPending_pcnt (s : State) :
    (clearPending s).pcnt = s.pcnt := rfl
@[simp] theorem clearPending_phase (s : State) :
    (clearPending s).phase = s.phase := rfl
@[simp] theorem clearPending_hold (s : State) :
    (clearPending s).hold = s.hold := rfl
@[simp] theorem clearPending_pbuf (s : State) :
    (clearPending s).pbuf = s.pbuf := rfl
@[simp] theorem clearPending_trl (s : State) :
    (clearPending s).trl = s.trl := rfl
@[simp] theorem clearPending_tidx (s : State) :
    (clearPending s).tidx = s.tidx := rfl
@[simp] theorem clearPending_respMode (s : State) :
    (clearPending s).respMode = s.respMode := rfl
@[simp] theorem clearPending_dataExpected (s : State) :
    (clearPending s).dataExpected = s.dataExpected := rfl
@[simp] theorem clearPending_pending (s : State) :
    (clearPending s).pending = none := rfl
@[simp] theorem clearPending_params (s : State) :
    (clearPending s).params = s.params := rfl
@[simp] theorem clearPending_otpImage (s : State) :
    (clearPending s).otpImage = s.otpImage := rfl
@[simp] theorem clearPending_otpBad (s : State) :
    (clearPending s).otpBad = s.otpBad := rfl
@[simp] theorem clearPending_dest (s : State) :
    (clearPending s).dest = s.dest := rfl
@[simp] theorem clearPending_caller (s : State) :
    (clearPending s).caller = s.caller := rfl
@[simp] theorem clearPending_rx (s : State) :
    (clearPending s).rx = s.rx := rfl
@[simp] theorem clearPending_tx (s : State) :
    (clearPending s).tx = s.tx := rfl
@[simp] theorem clearPending_inbox (s : State) :
    (clearPending s).inbox = s.inbox := rfl
@[simp] theorem clearPending_returns (s : State) :
    (clearPending s).returns = s.returns := rfl

/-! ### storeChunk -/

@[simp] theorem storeChunk_fsm (s : State) :
    (storeChunk s).fsm = s.fsm := rfl
@[simp] theorem storeChunk_hdr (s : State) :
    (storeChunk s).hdr = s.hdr := rfl
@[simp] theorem storeChunk_hidx (s : State) :
    (storeChunk s).hidx = s.hidx := rfl
@[simp] theorem storeChunk_reqCmd (s : State) :
    (storeChunk s).reqCmd = s.reqCmd := rfl
@[simp] theorem storeChunk_reqArg0 (s : State) :
    (storeChunk s).reqArg0 = s.reqArg0 := rfl
@[simp] theorem storeChunk_reqLen (s : State) :
    (storeChunk s).reqLen = s.reqLen := rfl
@[simp] theorem storeChunk_reqMode (s : State) :
    (storeChunk s).reqMode = s.reqMode := rfl
@[simp] theorem storeChunk_crcAcc (s : State) :
    (storeChunk s).crcAcc = s.crcAcc := rfl
@[simp] theorem storeChunk_pcnt (s : State) :
    (storeChunk s).pcnt = s.pcnt := rfl
@[simp] theorem storeChunk_phase (s : State) :
    (storeChunk s).phase = s.phase := rfl
@[simp] theorem storeChunk_hold (s : State) :
    (storeChunk s).hold = s.hold := rfl
@[simp] theorem storeChunk_pbuf (s : State) :
    (storeChunk s).pbuf = s.pbuf := rfl
@[simp] theorem storeChunk_trl (s : State) :
    (storeChunk s).trl = s.trl := rfl
@[simp] theorem storeChunk_tidx (s : State) :
    (storeChunk s).tidx = s.tidx := rfl
@[simp] theorem storeChunk_respMode (s : State) :
    (storeChunk s).respMode = s.respMode := rfl
@[simp] theorem storeChunk_dataExpected (s : State) :
    (storeChunk s).dataExpected = s.dataExpected + s.reqLen.toNat := rfl
@[simp] theorem storeChunk_pending (s : State) :
    (storeChunk s).pending = s.pending := rfl
@[simp] theorem storeChunk_params (s : State) :
    (storeChunk s).params = s.params := rfl
@[simp] theorem storeChunk_otpImage (s : State) :
    (storeChunk s).otpImage = s.otpImage := rfl
@[simp] theorem storeChunk_otpBad (s : State) :
    (storeChunk s).otpBad = s.otpBad := rfl
@[simp] theorem storeChunk_dest (s : State) :
    (storeChunk s).dest = Memory.writeBytes s.dest s.dataExpected (requestPayload s) := rfl
@[simp] theorem storeChunk_caller (s : State) :
    (storeChunk s).caller = s.caller := rfl
@[simp] theorem storeChunk_rx (s : State) :
    (storeChunk s).rx = s.rx := rfl
@[simp] theorem storeChunk_tx (s : State) :
    (storeChunk s).tx = s.tx := rfl
@[simp] theorem storeChunk_inbox (s : State) :
    (storeChunk s).inbox = s.inbox := rfl
@[simp] theorem storeChunk_returns (s : State) :
    (storeChunk s).returns = s.returns := rfl

/-! ### resetEngine: the registers R36 gives a value, and what R291 leaves alone -/

@[simp] theorem resetEngine_fsm (s : State) : (resetEngine s).fsm = .awaitSof := rfl
@[simp] theorem resetEngine_hidx (s : State) : (resetEngine s).hidx = 0 := rfl
@[simp] theorem resetEngine_pcnt (s : State) : (resetEngine s).pcnt = 0 := rfl
@[simp] theorem resetEngine_phase (s : State) : (resetEngine s).phase = 0 := rfl
@[simp] theorem resetEngine_tidx (s : State) : (resetEngine s).tidx = 0 := rfl
@[simp] theorem resetEngine_respMode (s : State) : (resetEngine s).respMode = .hex := rfl
@[simp] theorem resetEngine_dataExpected (s : State) : (resetEngine s).dataExpected = 0 := rfl
@[simp] theorem resetEngine_pending (s : State) : (resetEngine s).pending = none := rfl
@[simp] theorem resetEngine_params (s : State) : (resetEngine s).params = s.params := rfl
@[simp] theorem resetEngine_otpImage (s : State) : (resetEngine s).otpImage = s.otpImage := rfl
@[simp] theorem resetEngine_otpBad (s : State) : (resetEngine s).otpBad = s.otpBad := rfl
@[simp] theorem resetEngine_dest (s : State) : (resetEngine s).dest = s.dest := rfl
@[simp] theorem resetEngine_caller (s : State) : (resetEngine s).caller = s.caller := rfl
@[simp] theorem resetEngine_rx (s : State) : (resetEngine s).rx = s.rx := rfl
@[simp] theorem resetEngine_tx (s : State) : (resetEngine s).tx = s.tx := rfl
@[simp] theorem resetEngine_inbox (s : State) : (resetEngine s).inbox = s.inbox := rfl
@[simp] theorem resetEngine_returns (s : State) : (resetEngine s).returns = s.returns := rfl

end Sys2Proof.Machine
end

