-- ==== Sys2Proof/Laws/Engine.lean ====
section
/-! SUPPORT. What each shared operation of the engine can do, said once, and what a whole frame delivered from AWAIT_SOF
comes to: the registers R135 to R139 leave, and then the frame's decision. -/

namespace Sys2Proof.Machine

/-! ### The receive step -/

/-- With nothing queued, a delivered byte is the byte taken (R54, R130). -/
theorem receive_of_empty (b : Byte) (s : State) (hrx : s.rx = []) (ht : takesByte s = true) :
    receive b s = rxRule b s := by
  have ht' : takesByte { s with rx := s.rx ++ [b] } = true := ht
  rw [receive, engineTake, if_pos ht']
  simp only [hrx, List.nil_append]
  rw [← hrx]

/-- In DISPATCH_WAIT and EXITED a delivered byte stays in the queue (R142). -/
theorem receive_of_waiting (b : Byte) (s : State) (ht : takesByte s = false) :
    receive b s = { s with rx := s.rx ++ [b] } := by
  have ht' : takesByte { s with rx := s.rx ++ [b] } = false := ht
  simp [receive, engineTake, ht']

theorem deliver_append (xs ys : List Byte) (s : State) : deliver (xs ++ ys) s = deliver ys (deliver xs s) := by
  induction xs generalizing s with
  | nil => rfl
  | cons x xs ih => exact ih (receive x s)

/-- In DISPATCH_WAIT and EXITED delivered bytes stay in the queue (R142). -/
theorem deliver_of_waiting (bs : List Byte) (s : State) (ht : takesByte s = false) :
    deliver bs s = { s with rx := s.rx ++ bs } := by
  induction bs generalizing s with
  | nil => cases s; simp [deliver]
  | cons b bs ih =>
    rw [deliver, receive_of_waiting b s ht, ih { s with rx := s.rx ++ [b] } ht]
    simp

/-! ### Filling HDR, TRL and PBUF -/

/-- Bytes written into a byte array from an index on, those past its end dropped. -/
def fillVector {n : Nat} (v : Vector Byte n) (i : Nat) (bs : List Byte) : Vector Byte n :=
  match bs with
  | [] => v
  | b :: rest => fillVector (v.setIfInBounds i b) (i + 1) rest

theorem fillVector_getElem {n : Nat} (bs : List Byte) (v : Vector Byte n) (i k : Nat) (hk : k < n) :
    (fillVector v i bs)[k] = if h : i ≤ k ∧ k < i + bs.length then bs[k - i]'(by omega) else v[k] := by
  induction bs generalizing v i with
  | nil =>
    have : ¬ (i ≤ k ∧ k < i + ([] : List Byte).length) := by simp
    rw [dif_neg this]; rfl
  | cons b bs ih =>
    rw [fillVector, ih]
    by_cases h1 : i + 1 ≤ k ∧ k < i + 1 + bs.length
    · have h2 : i ≤ k ∧ k < i + (b :: bs).length := by simp only [List.length_cons]; omega
      rw [dif_pos h1, dif_pos h2]
      have h3 : k - i = k - (i + 1) + 1 := by omega
      simp [h3]
    · rw [dif_neg h1]
      by_cases h4 : i = k
      · subst h4
        have h2 : i ≤ i ∧ i < i + (b :: bs).length := by simp
        rw [dif_pos h2]
        simp
      · have h2 : ¬ (i ≤ k ∧ k < i + (b :: bs).length) := by simp only [List.length_cons]; omega
        rw [dif_neg h2, Vector.getElem_setIfInBounds_ne hk h4]

/-- Filling from 0 with as many bytes as there are places leaves just those bytes. -/
theorem fillVector_all {n : Nat} (v w : Vector Byte n) : fillVector v 0 w.toList = w := by
  apply Vector.ext
  intro k hk
  rw [fillVector_getElem]
  simp [hk]

/-- PBUF after bytes stored from index `i` on, those at or past the capacity dropped (R26). -/
def fillBuffer (cap : Nat) (m : Memory) (i : Nat) (bs : List Byte) : Memory :=
  match bs with
  | [] => m
  | b :: rest => fillBuffer cap (bufferWrite cap m i b) (i + 1) rest

theorem wf_bufferWrite (cap : Nat) {m : Memory} (i : Nat) (v : Byte) (h : Memory.wf m = true) :
    Memory.wf (bufferWrite cap m i v) = true := by
  unfold bufferWrite
  split
  · exact Memory.wf_write i v h
  · exact h

theorem wf_fillBuffer (cap : Nat) (bs : List Byte) (m : Memory) (i : Nat) (h : Memory.wf m = true) :
    Memory.wf (fillBuffer cap m i bs) = true := by
  induction bs generalizing m i with
  | nil => exact h
  | cons b bs ih =>
    exact ih _ _ (wf_bufferWrite cap i b h)

theorem fillBuffer_eq (cap : Nat) (bs : List Byte) (m : Memory) (i : Nat) (h : i + bs.length ≤ cap) :
    fillBuffer cap m i bs = Memory.writeBytes m i bs := by
  induction bs generalizing m i with
  | nil => rfl
  | cons b bs ih =>
    simp only [List.length_cons] at h
    rw [fillBuffer, bufferWrite, if_pos (by omega), ih _ _ (by omega), Memory.writeBytes]

/-- A payload that fits is read back from PBUF as it was stored (R26, R192). -/
theorem readBytes_fillBuffer (cap : Nat) (bs : List Byte) (m : Memory) (hm : Memory.wf m = true)
    (h : bs.length ≤ cap) : Memory.readBytes (fillBuffer cap m 0 bs) 0 bs.length = bs := by
  rw [fillBuffer_eq cap bs m 0 (by omega)]
  refine Memory.readBytes_eq fun i hi => ?_
  rw [Memory.read_writeBytes hm, if_pos (by omega)]
  simp [List.getD_eq_getElem?_getD, hi]

/-- The last high-nibble character of a run of pairs: what HOLD ends at (R137). -/
def lastHigh (w : List Byte) (d : Byte) : Byte :=
  match w with
  | hi :: _ :: rest => lastHigh rest hi
  | _ => d

/-! ### The stages of a frame -/

/-- The SOF byte (R131). -/
theorem deliver_sof (s : State) (hf : s.fsm = .awaitSof) (hrx : s.rx = []) :
    receive Config.sof s = { s with hidx := 0, fsm := .readHeader } := by
  have ht : takesByte s = true := by rw [takesByte, hf]
  rw [receive_of_empty _ s hrx ht]
  simp [rxRule, hf, rxAwaitSof, goto]

/-- Header bytes before the 20th only fill HDR (R132). -/
theorem deliver_header_part (bs : List Byte) (s : State) (hf : s.fsm = .readHeader) (hrx : s.rx = [])
    (h : s.hidx + bs.length < 20) :
    deliver bs s = { s with hdr := fillVector s.hdr s.hidx bs, hidx := s.hidx + bs.length } := by
  induction bs generalizing s with
  | nil => cases s; rfl
  | cons b bs ih =>
    simp only [List.length_cons] at h
    have ht : takesByte s = true := by rw [takesByte, hf]
    have hstep : receive b s = storeHeader b s := by
      have hne : s.hidx + 1 ≠ Config.hdrLen := by simp [Config.hdrLen]; omega
      rw [receive_of_empty b s hrx ht]
      simp [rxRule, hf, rxHeader, hne]
    rw [deliver, hstep, ih (storeHeader b s) (by simp [hf]) (by simp [hrx]) (by simp; omega)]
    apply State.ext <;> simp [fillVector]
    omega

/-- The 20 header bytes, then the structural check (R132, R133). -/
theorem deliver_header (v : Vector Byte 20) (s : State) (hf : s.fsm = .readHeader) (hrx : s.rx = [])
    (hi : s.hidx = 0) :
    deliver v.toList s = checkHeader { s with hdr := v, hidx := 20 } := by
  have hsplit : v.toList = v.toList.take 19 ++ [v[19]] := by
    have : v.toList.drop 19 = [v[19]] := by
      rw [List.drop_eq_getElem_cons (by simp), List.drop_eq_nil_of_le (by simp)]
      simp
    rw [← this, List.take_append_drop]
  have hlen : (v.toList.take 19).length = 19 := by simp
  rw [hsplit, deliver_append, deliver_header_part _ s hf hrx (by omega)]
  generalize hs' : ({ s with hdr := fillVector s.hdr s.hidx (v.toList.take 19),
                             hidx := s.hidx + (v.toList.take 19).length } : State) = s'
  have hf' : s'.fsm = .readHeader := by rw [← hs']; exact hf
  have hrx' : s'.rx = [] := by rw [← hs']; exact hrx
  have hi' : s'.hidx = 19 := by rw [← hs']; simp [hi]
  have ht' : takesByte s' = true := by rw [takesByte, hf']
  rw [deliver, deliver, receive_of_empty _ s' hrx' ht']
  simp only [rxRule, hf', rxHeader, storeHeader_hidx, hi', Config.hdrLen, if_true]
  have happ : (fillVector s.hdr s.hidx (v.toList.take 19)).setIfInBounds 19 v[19] = v := by
    rw [hi]
    apply Vector.ext
    intro k hk
    by_cases h19 : k = 19
    · subst h19; simp
    · rw [Vector.getElem_setIfInBounds_ne hk (by omega), fillVector_getElem]
      have h2 : 0 ≤ k ∧ k < 0 + (v.toList.take 19).length := by simp; omega
      rw [dif_pos h2]
      simp
  have hh : s'.hdr = fillVector s.hdr s.hidx (v.toList.take 19) := by rw [← hs']
  congr 1
  apply State.ext
  all_goals first
    | (rw [← hs']; rfl)
    | (simp only [storeHeader_hdr, hi', hh]; exact happ)
    | (simp only [storeHeader_hidx, hi'])

/-- A BIN payload, to its last byte (R136, R138). -/
theorem deliver_payload_bin (w : List Byte) (s : State) (hf : s.fsm = .readPayload) (hm : s.reqMode = .bin)
    (hrx : s.rx = []) (hw : w ≠ []) (h : s.pcnt + w.length = s.reqLen.toNat) :
    deliver w s = { s with
      crcAcc := crc32c s.crcAcc w
      pbuf := fillBuffer s.params.payloadMax s.pbuf s.pcnt w
      pcnt := s.reqLen.toNat
      tidx := 0
      fsm := .readCrc } := by
  induction w generalizing s with
  | nil => exact absurd rfl hw
  | cons b w ih =>
    simp only [List.length_cons] at h
    have ht : takesByte s = true := by rw [takesByte, hf]
    have hstep : receive b s = payloadDone (storePayload b (foldCrc b s)) := by
      rw [receive_of_empty b s hrx ht]; simp [rxRule, hf, hm, rxPayloadBin]
    rw [deliver, hstep]
    by_cases hw' : w = []
    · subst hw'
      have hd : s.pcnt + 1 = s.reqLen.toNat := by simpa using h
      have hpd : payloadDone (storePayload b (foldCrc b s))
          = goto .readCrc { storePayload b (foldCrc b s) with tidx := 0 } := by
        rw [payloadDone, if_pos (by simpa using hd)]
      rw [deliver, hpd]
      apply State.ext <;> simp [fillBuffer, hd]
    · have hpos : 0 < w.length := List.length_pos_iff.mpr hw'
      have hpd : payloadDone (storePayload b (foldCrc b s)) = storePayload b (foldCrc b s) := by
        rw [payloadDone, if_neg (by simp; omega)]
      rw [hpd, ih (storePayload b (foldCrc b s)) (by simp [hf]) (by simp [hm]) (by simp [hrx]) hw' (by simp; omega)]
      apply State.ext <;> simp [fillBuffer]
      exact (crc32c_cons _ _ _).symm

/-- A HEX payload, to its last character (R137, R138). -/
theorem deliver_payload_hex (n : Nat) (w : List Byte) (s : State) (hf : s.fsm = .readPayload) (hm : s.reqMode = .hex)
    (hrx : s.rx = []) (hp : s.phase = 0) (hl : w.length = 2 * n) (hn : n ≠ 0) (h : s.pcnt + n = s.reqLen.toNat) :
    deliver w s = { s with
      crcAcc := crc32c s.crcAcc w
      hold := lastHigh w s.hold
      pbuf := fillBuffer s.params.payloadMax s.pbuf s.pcnt (unpair w)
      pcnt := s.reqLen.toNat
      tidx := 0
      fsm := .readCrc } := by
  induction n generalizing w s with
  | zero => exact absurd rfl hn
  | succ n ih =>
    match w, hl with
    | hi :: lo :: w, hl =>
      have hl' : w.length = 2 * n := by simp only [List.length_cons] at hl; omega
      have ht : takesByte s = true := by rw [takesByte, hf]
      have hstep1 : receive hi s = holdHigh hi (foldCrc hi s) := by
        rw [receive_of_empty hi s hrx ht]; simp [rxRule, hf, hm, rxPayloadHex, hp]
      generalize hs1 : holdHigh hi (foldCrc hi s) = s1 at hstep1
      have hf1 : s1.fsm = .readPayload := by rw [← hs1]; exact hf
      have hm1 : s1.reqMode = .hex := by rw [← hs1]; exact hm
      have hrx1 : s1.rx = [] := by rw [← hs1]; exact hrx
      have hp1 : s1.phase = 1 := by rw [← hs1]; rfl
      have hh1 : s1.hold = hi := by rw [← hs1]; rfl
      have hpc : s1.pcnt = s.pcnt := by rw [← hs1]; rfl
      have hrl : s1.reqLen = s.reqLen := by rw [← hs1]; rfl
      have ht1 : takesByte s1 = true := by rw [takesByte, hf1]
      generalize hs2 : pairDone (storePayload (pairDecode hi lo) (foldCrc lo s1)) = s2
      have hstep2 : receive lo s1 = payloadDone s2 := by
        rw [receive_of_empty lo s1 hrx1 ht1, ← hs2]; simp [rxRule, hf1, hm1, rxPayloadHex, hp1, hh1]
      have hpc2 : s2.pcnt = s.pcnt + 1 := by rw [← hs2]; simp [hpc]
      have hrl2 : s2.reqLen = s.reqLen := by rw [← hs2]; simp [hrl]
      rw [deliver, hstep1, deliver, hstep2]
      by_cases hn' : n = 0
      · subst hn'
        have hw' : w = [] := List.length_eq_zero_iff.mp (by omega)
        subst hw'
        have hpd : payloadDone s2 = goto .readCrc { s2 with tidx := 0 } := by
          rw [payloadDone, if_pos (by rw [hpc2, hrl2]; omega)]
        rw [deliver, hpd]
        apply State.ext <;> simp only [goto_fsm, goto_hdr, goto_hidx, goto_reqCmd, goto_reqArg0, goto_reqLen, goto_reqMode, goto_crcAcc, goto_pcnt, goto_phase, goto_hold, goto_pbuf, goto_trl, goto_tidx, goto_respMode, goto_dataExpected, goto_pending, goto_params, goto_otpImage, goto_otpBad, goto_dest, goto_caller, goto_rx, goto_tx, goto_inbox, goto_returns]
        all_goals first
          | (rw [hpc2]; omega)
          | (rw [← hs2, ← hs1]; simp [fillBuffer, unpair, lastHigh, hp, ← crc32c_append])
      · have hpd : payloadDone s2 = s2 := by
          rw [payloadDone, if_neg (by rw [hpc2, hrl2]; omega)]
        rw [hpd, ih w s2 (by rw [← hs2]; exact hf1) (by rw [← hs2]; exact hm1) (by rw [← hs2]; exact hrx1)
          (by rw [← hs2]; rfl) hl' hn' (by rw [hpc2, hrl2]; omega)]
        apply State.ext <;> simp only []
        all_goals first
          | (rw [hrl2])
          | (rw [← hs2, ← hs1]; simp [fillBuffer, unpair, lastHigh, hp, ← crc32c_append])
    | [_], hl => simp at hl; omega
    | [], hl => simp at hl

/-- Trailer characters before the 8th only fill TRL (R139). -/
theorem deliver_trailer_part (bs : List Byte) (s : State) (hf : s.fsm = .readCrc) (hrx : s.rx = [])
    (h : s.tidx + bs.length < 8) :
    deliver bs s = { s with trl := fillVector s.trl s.tidx bs, tidx := s.tidx + bs.length } := by
  induction bs generalizing s with
  | nil => cases s; rfl
  | cons b bs ih =>
    simp only [List.length_cons] at h
    have ht : takesByte s = true := by rw [takesByte, hf]
    have hstep : receive b s = storeTrailer b s := by
      have hne : s.tidx + 1 ≠ Config.trailerLen := by simp [Config.trailerLen]; omega
      rw [receive_of_empty b s hrx ht]
      simp [rxRule, hf, rxTrailer, hne]
    rw [deliver, hstep, ih (storeTrailer b s) (by simp [hf]) (by simp [hrx]) (by simp; omega)]
    apply State.ext <;> simp [fillVector]
    omega

/-- The 8 trailer characters, then the frame's decision (R139). -/
theorem deliver_trailer (v : Vector Byte 8) (s : State) (hf : s.fsm = .readCrc) (hrx : s.rx = [])
    (hi : s.tidx = 0) :
    deliver v.toList s = frameDecision { s with trl := v, tidx := 8, fsm := .awaitSof } := by
  have hsplit : v.toList = v.toList.take 7 ++ [v[7]] := by
    have : v.toList.drop 7 = [v[7]] := by
      rw [List.drop_eq_getElem_cons (by simp), List.drop_eq_nil_of_le (by simp)]
      simp
    rw [← this, List.take_append_drop]
  have hlen : (v.toList.take 7).length = 7 := by simp
  rw [hsplit, deliver_append, deliver_trailer_part _ s hf hrx (by omega)]
  generalize hs' : ({ s with trl := fillVector s.trl s.tidx (v.toList.take 7),
                             tidx := s.tidx + (v.toList.take 7).length } : State) = s'
  have hf' : s'.fsm = .readCrc := by rw [← hs']; exact hf
  have hrx' : s'.rx = [] := by rw [← hs']; exact hrx
  have hi' : s'.tidx = 7 := by rw [← hs']; simp [hi]
  have ht' : takesByte s' = true := by rw [takesByte, hf']
  rw [deliver, deliver, receive_of_empty _ s' hrx' ht']
  simp only [rxRule, hf', rxTrailer, storeTrailer_tidx, hi', Config.trailerLen, if_true]
  have happ : (fillVector s.trl s.tidx (v.toList.take 7)).setIfInBounds 7 v[7] = v := by
    rw [hi]
    apply Vector.ext
    intro k hk
    by_cases h7 : k = 7
    · subst h7; simp
    · rw [Vector.getElem_setIfInBounds_ne hk (by omega), fillVector_getElem]
      have h2 : 0 ≤ k ∧ k < 0 + (v.toList.take 7).length := by simp; omega
      rw [dif_pos h2]
      simp
  have hh : s'.trl = fillVector s.trl s.tidx (v.toList.take 7) := by rw [← hs']
  congr 1
  apply State.ext
  all_goals first
    | (rw [← hs']; rfl)
    | (simp only [goto_trl, storeTrailer_trl, hi', hh]; exact happ)
    | (simp only [goto_tidx, storeTrailer_tidx, hi'])

/-! ### A whole frame -/

/-- The 20 header bytes of a frame as HDR holds them (R22, R71). -/
def headerVector (f : Frame) : Vector Byte 20 := ⟨(frameHeader f).toArray, by simp⟩

@[simp] theorem headerVector_toList (f : Frame) : (headerVector f).toList = frameHeader f := rfl

theorem headerVector_facts (f : Frame) :
    headerOk (headerVector f) = true ∧ headerCmd (headerVector f) = f.cmd ∧
    headerArg0 (headerVector f) = atohex f.arg0.toList ∧ headerLen (headerVector f) = atohex f.len.toList ∧
    headerMode (headerVector f) = f.mode := by
  obtain ⟨c, ⟨⟨a⟩, ha⟩, ⟨⟨l⟩, hl⟩, m, p, t⟩ := f
  match a, ha, l, hl with
  | [a0, a1, a2, a3, a4, a5, a6, a7], _, [l0, l1, l2, l3, l4, l5, l6, l7], _ =>
    refine ⟨?_, rfl, rfl, rfl, ?_⟩
    · cases m <;> rfl
    · cases m <;> rfl

/-- The registers a delivered frame leaves before its decision (R135 to R139). -/
def frameRegisters (f : Frame) (s : State) : State :=
  { s with
    hdr := headerVector f
    hidx := 20
    reqCmd := f.cmd
    reqArg0 := atohex f.arg0.toList
    reqLen := atohex f.len.toList
    reqMode := f.mode
    respMode := f.mode
    crcAcc := frameCrc f
    pcnt := frameLen f
    phase := 0
    hold := if f.mode = .hex then lastHigh f.payload s.hold else s.hold
    pbuf := fillBuffer s.params.payloadMax s.pbuf 0 (framePayload f)
    trl := f.crc
    tidx := 8
    fsm := .awaitSof }

/-- A frame whose payload has the length its header gives, delivered from AWAIT_SOF with nothing queued: its registers,
and then its decision (R131 to R139). -/
theorem deliver_frame (f : Frame) (s : State) (hf : s.fsm = .awaitSof) (hrx : s.rx = [])
    (hl : f.payload.length = wireLen (frameLen f) f.mode) :
    deliver (frameBytes f) s = frameDecision (frameRegisters f s) := by
  obtain ⟨hok, hc, ha, hlen, hmode⟩ := headerVector_facts f
  have h1 : frameBytes f = [Config.sof] ++ ((headerVector f).toList ++ (f.payload ++ f.crc.toList)) := by
    simp [frameBytes]
  have hsof : deliver [Config.sof] s = { s with hidx := 0, fsm := .readHeader } := by
    rw [deliver, deliver, deliver_sof s hf hrx]
  have hhdr := deliver_header (headerVector f) { s with hidx := 0, fsm := .readHeader } rfl hrx rfl
  rw [h1, deliver_append, hsof, deliver_append, hhdr]
  have hcheck : checkHeader { s with hdr := headerVector f, hidx := 20, fsm := .readHeader } =
      { s with
        hdr := headerVector f, hidx := 20, reqCmd := f.cmd, reqArg0 := atohex f.arg0.toList,
        reqLen := atohex f.len.toList, reqMode := f.mode, respMode := f.mode,
        crcAcc := crc32c 0#32 (frameHeader f), pcnt := 0, phase := 0, tidx := 0,
        fsm := if atohex f.len.toList = 0#32 then .readCrc else .readPayload } := by
    simp only [checkHeader, hok, if_true, acceptHeader, hc, ha, hlen, hmode, headerVector_toList]
  rw [hcheck, deliver_append]
  by_cases hz : atohex f.len.toList = 0#32
  · have hz' : frameLen f = 0 := by simp [frameLen, hz]
    have hp : f.payload = [] := by
      rw [hz'] at hl
      cases hm : f.mode <;> rw [hm] at hl <;> exact List.length_eq_zero_iff.mp hl
    rw [hp, deliver, deliver_trailer f.crc]
    rotate_left
    · simp [hz]
    · exact hrx
    · rfl
    congr 1
    have hfp : framePayload f = [] := by rw [framePayload, hp]; cases f.mode <;> rfl
    simp [frameRegisters, hz, hz', hfp, fillBuffer, frameCrc, hp, lastHigh]
  · have hz' : frameLen f ≠ 0 := fun h => hz (BitVec.eq_of_toNat_eq (by simpa [frameLen] using h))
    cases hm : f.mode with
    | bin =>
      rw [hm] at hl
      have hne : f.payload ≠ [] := by
        intro h; rw [h] at hl; exact hz' hl.symm
      rw [deliver_payload_bin f.payload, deliver_trailer f.crc]
      rotate_left
      · rfl
      · exact hrx
      · rfl
      · simp [hz]
      · rfl
      · exact hrx
      · exact hne
      · simp [hl, wireLen, frameLen]
      congr 1
      simp [frameRegisters, hm, framePayload, decodePayload, frameCrc, frameLen, crc32c_append]
    | hex =>
      rw [hm] at hl
      rw [deliver_payload_hex (frameLen f) f.payload, deliver_trailer f.crc]
      rotate_left
      · rfl
      · exact hrx
      · rfl
      · simp [hz]
      · rfl
      · exact hrx
      · rfl
      · exact hl
      · exact hz'
      · simp [frameLen]
      congr 1
      simp [frameRegisters, hm, framePayload, decodePayload, frameCrc, frameLen, crc32c_append]

/-- A header that fails the structural check, delivered from AWAIT_SOF with nothing queued (R131 to R134). -/
theorem deliver_garbled (v : Vector Byte 20) (s : State) (hf : s.fsm = .awaitSof) (hrx : s.rx = [])
    (hbad : headerOk v = false) :
    deliver (Config.sof :: v.toList) s = garbledHeader { s with hdr := v, hidx := 20, fsm := .readHeader } := by
  have hhdr := deliver_header v { s with hidx := 0, fsm := .readHeader } rfl hrx rfl
  rw [deliver, deliver_sof s hf hrx, hhdr, checkHeader]
  simp [hbad]

end Sys2Proof.Machine
end

