-- ==== Sys2Proof/Laws/Fetch.lean ====
section
/-! SUPPORT. Which transaction a step takes: what pick answers on every inbox, and what a step then does. -/

namespace Sys2Proof.Machine

theorem isReset_iff (t : Transaction) : isReset t = true ↔ t = encode .reset := by simp [isReset]

@[simp] theorem isReset_reset : isReset (encode .reset) = true := rfl

@[simp] theorem isResponse_response (k : Kind) (a : U32) (p : List Byte) :
    isResponse (encode (.dispatchResponse k a p)) = true := rfl

@[simp] theorem hasNoStep_dispatchWait (t : Transaction) : hasNoStep .dispatchWait t = false := by simp [hasNoStep]

@[simp] theorem decode_reset (P : Params) : decode P (encode .reset) = .ok .reset := rfl

/-- A RESET is no response, so it always has a step. -/
theorem not_isReset_of_hasNoStep {fsm : Fsm} {t : Transaction} (h : hasNoStep fsm t = true) : isReset t = false := by
  cases hr : isReset t
  · rfl
  · rw [(isReset_iff t).mp hr] at h
    exact absurd h (by simp [hasNoStep, isResponse, encode])

/-- A RESET goes first, and the responses ahead of it are gone (R269, R290). -/
theorem pick_reset (fsm : Fsm) (before after : List Transaction) (h : encode .reset ∉ before) :
    pick fsm (before ++ encode .reset :: after)
      = some (encode .reset, before.filter (fun u => !isResponse u) ++ after) := by
  have hb : ∀ u ∈ before, (!isReset u) = true := fun u hu => by
    cases hr : isReset u
    · rfl
    · exact absurd ((isReset_iff u).mp hr ▸ hu) h
  rw [pick, List.dropWhile_append_of_pos hb, List.takeWhile_append_of_pos hb]
  simp

/-- With no RESET pending, pick passes over the responses without a step. -/
theorem pick_of_no_reset (fsm : Fsm) {inbox : List Transaction} (h : encode .reset ∉ inbox) :
    pick fsm inbox = match inbox.dropWhile (hasNoStep fsm) with
      | [] => none
      | t :: rest => some (t, rest) := by
  have hb : ∀ u ∈ inbox, (!isReset u) = true := fun u hu => by
    cases hr : isReset u
    · rfl
    · exact absurd ((isReset_iff u).mp hr ▸ hu) h
  rw [pick, List.dropWhile_eq_nil_iff.mpr hb] <;> rfl

/-- With no RESET behind it, the oldest transaction that has a step is taken. -/
theorem pick_first (fsm : Fsm) (before after : List Transaction) (t : Transaction)
    (hb : ∀ u ∈ before, hasNoStep fsm u = true) (ht : hasNoStep fsm t = false) (ha : encode .reset ∉ after) :
    pick fsm (before ++ t :: after) = some (t, after) := by
  have hb' : encode .reset ∉ before := fun h => by
    have := not_isReset_of_hasNoStep (hb _ h)
    simp at this
  by_cases hr : t = encode .reset
  · rw [hr, pick_reset fsm before after hb']
    have : before.filter (fun u => !isResponse u) = [] := List.filter_eq_nil_iff.mpr fun u hu => by
      have h := hb u hu
      simp only [hasNoStep, Bool.and_eq_true] at h
      simp [h.1]
    rw [this, List.nil_append]
  · rw [pick_of_no_reset fsm (by simp [hb', ha, Ne.symm hr]), List.dropWhile_append_of_pos hb]
    simp [ht]

/-- Where every transaction is a response without a step, none is taken. -/
theorem pick_none (fsm : Fsm) {inbox : List Transaction} (h : ∀ u ∈ inbox, hasNoStep fsm u = true) :
    pick fsm inbox = none := by
  have hr : encode .reset ∉ inbox := fun hm => by
    have := not_isReset_of_hasNoStep (h _ hm)
    simp at this
  rw [pick_of_no_reset fsm hr, List.dropWhile_eq_nil_iff.mpr h]

/-! ### Received bytes (R14, R130; log entry 22) -/

/-- A received frame that decodes is the bytes of a frame, and its row delivers them (R86). -/
theorem exec_decodeRx {P : Params} {bs : List Byte} {i : Instr} (h : decodeRx P bs = .ok i) (s : State) :
    exec i s = .next (deliver bs s) := by
  unfold decodeRx at h
  split at h
  · cases h
  · next f hf =>
    rw [(parseFrame_ok hf).1]
    split at h
    · cases h
      unfold classifyRequest
      split_ifs <;> rfl
    · cases h

/-- A header row delivers SOF and its bytes (R134). -/
theorem exec_decodeHeader {bs : List Byte} {i : Instr} (h : decodeHeader bs = .ok i) (s : State) :
    exec i s = .next (deliver (Config.sof :: bs) s) := by
  unfold decodeHeader at h
  split at h
  · simp only at h
    split at h <;> cases h
    rfl
  · cases h

/-- A delimiter row delivers its byte (R135). -/
theorem exec_decodeDelim {bs : List Byte} {i : Instr} (h : decodeDelim bs = .ok i) (s : State) :
    exec i s = .next (deliver bs s) := by
  unfold decodeDelim at h
  split at h
  · next b =>
    split at h
    · next hm => cases h; rw [modeOfDelim_some hm]; rfl
    · next hm => cases h; rw [modeOfDelim_some hm]; rfl
    · cases h
  · cases h

/-- Every row of the receive direction delivers its bytes. -/
theorem exec_wire {P : Params} {t : Transaction} {i : Instr} {bs : List Byte} (h : decode P t = .ok i)
    (hw : wireBytes t = some bs) (s : State) : exec i s = .next (deliver bs s) := by
  obtain ⟨format, bytes⟩ := t
  cases format <;> cases hw
  · exact exec_decodeRx h s
  · exact exec_decodeHeader h s
  · exact exec_decodeDelim h s

/-- A transaction of received bytes is delivered, whatever its bytes are (R14). -/
theorem step_wire {s : State} {t : Transaction} {rest : List Transaction} {bs : List Byte} (hp : s.params.wf = true)
    (h : pick s.fsm s.inbox = some (t, rest)) (hw : wireBytes t = some bs) :
    step s = .next (deliver bs { s with inbox := rest }) := by
  unfold step fetch
  simp only [hp, h, hw]
  cases hd : decode s.params t with
  | error e => simp
  | ok i => simpa using exec_wire hd hw _

end Sys2Proof.Machine
end

