-- ==== Sys2Proof/Laws/Frames.lean ====
section
/-! SUPPORT. What delivering a whole frame leaves in the registers, byte by byte of PBUF, and when it comes to the routing of
spec/43_dispatch_data.md R190. -/

namespace Sys2Proof.Machine

/-- Feeding bytes never stops (R14): it is delivering them. -/
theorem feed_eq (bs : List Byte) (s : State) : feed bs s = .next (deliver bs s) := by
  induction bs generalizing s with
  | nil => rfl
  | cons b bs ih => simp [feed, exec, execRxByte, ih, deliver]

/-- A byte of PBUF after a payload stored from index `i` on (R26). -/
theorem read_fillBuffer {cap : Nat} {bs : List Byte} {m : Memory} (i x : Nat) (h : Memory.wf m = true) :
    Memory.read (fillBuffer cap m i bs) x
      = if i ≤ x ∧ x < i + bs.length ∧ x < cap then bs.getD (x - i) 0#8 else Memory.read m x := by
  induction bs generalizing m i with
  | nil =>
    have : ¬ (i ≤ x ∧ x < i + ([] : List Byte).length ∧ x < cap) := by simp only [List.length_nil]; omega
    rw [if_neg this]; rfl
  | cons b bs ih =>
    rw [fillBuffer, ih _ (wf_bufferWrite cap i b h)]
    have hb : Memory.read (bufferWrite cap m i b) x = if x = i ∧ i < cap then b else Memory.read m x := by
      unfold bufferWrite
      split
      · rw [Memory.read_write h]; simp [*]
      · simp [*]
    rw [hb]
    simp only [List.length_cons]
    by_cases hx : x = i
    · subst hx
      rw [if_neg (show ¬ (x + 1 ≤ x ∧ x < x + 1 + bs.length ∧ x < cap) by omega)]
      simp
    · by_cases hin : i + 1 ≤ x ∧ x < i + 1 + bs.length ∧ x < cap
      · rw [if_pos hin, if_pos (by omega), show x - i = (x - (i + 1)) + 1 by omega, List.getD_cons_succ]
      · rw [if_neg hin, if_neg (by tauto), if_neg (by omega)]

/-! ### The registers of a delivered frame, field by field -/

@[simp] theorem frameRegisters_fsm (f : Frame) (s : State) : (frameRegisters f s).fsm = .awaitSof := rfl
@[simp] theorem frameRegisters_hdr (f : Frame) (s : State) : (frameRegisters f s).hdr = headerVector f := rfl
@[simp] theorem frameRegisters_hidx (f : Frame) (s : State) : (frameRegisters f s).hidx = 20 := rfl
@[simp] theorem frameRegisters_reqCmd (f : Frame) (s : State) : (frameRegisters f s).reqCmd = f.cmd := rfl
@[simp] theorem frameRegisters_reqArg0 (f : Frame) (s : State) :
    (frameRegisters f s).reqArg0 = atohex f.arg0.toList := rfl
@[simp] theorem frameRegisters_reqLen (f : Frame) (s : State) :
    (frameRegisters f s).reqLen = atohex f.len.toList := rfl
@[simp] theorem frameRegisters_reqMode (f : Frame) (s : State) : (frameRegisters f s).reqMode = f.mode := rfl
@[simp] theorem frameRegisters_crcAcc (f : Frame) (s : State) : (frameRegisters f s).crcAcc = frameCrc f := rfl
@[simp] theorem frameRegisters_pcnt (f : Frame) (s : State) : (frameRegisters f s).pcnt = frameLen f := rfl
@[simp] theorem frameRegisters_phase (f : Frame) (s : State) : (frameRegisters f s).phase = 0 := rfl
@[simp] theorem frameRegisters_hold (f : Frame) (s : State) :
    (frameRegisters f s).hold = if f.mode = .hex then lastHigh f.payload s.hold else s.hold := rfl
@[simp] theorem frameRegisters_pbuf (f : Frame) (s : State) :
    (frameRegisters f s).pbuf = fillBuffer s.params.payloadMax s.pbuf 0 (framePayload f) := rfl
@[simp] theorem frameRegisters_trl (f : Frame) (s : State) : (frameRegisters f s).trl = f.crc := rfl
@[simp] theorem frameRegisters_tidx (f : Frame) (s : State) : (frameRegisters f s).tidx = 8 := rfl
@[simp] theorem frameRegisters_respMode (f : Frame) (s : State) : (frameRegisters f s).respMode = f.mode := rfl
@[simp] theorem frameRegisters_dataExpected (f : Frame) (s : State) :
    (frameRegisters f s).dataExpected = s.dataExpected := rfl
@[simp] theorem frameRegisters_pending (f : Frame) (s : State) : (frameRegisters f s).pending = s.pending := rfl
@[simp] theorem frameRegisters_params (f : Frame) (s : State) : (frameRegisters f s).params = s.params := rfl
@[simp] theorem frameRegisters_otpImage (f : Frame) (s : State) : (frameRegisters f s).otpImage = s.otpImage := rfl
@[simp] theorem frameRegisters_otpBad (f : Frame) (s : State) : (frameRegisters f s).otpBad = s.otpBad := rfl
@[simp] theorem frameRegisters_dest (f : Frame) (s : State) : (frameRegisters f s).dest = s.dest := rfl
@[simp] theorem frameRegisters_caller (f : Frame) (s : State) : (frameRegisters f s).caller = s.caller := rfl
@[simp] theorem frameRegisters_rx (f : Frame) (s : State) : (frameRegisters f s).rx = s.rx := rfl
@[simp] theorem frameRegisters_tx (f : Frame) (s : State) : (frameRegisters f s).tx = s.tx := rfl
@[simp] theorem frameRegisters_inbox (f : Frame) (s : State) : (frameRegisters f s).inbox = s.inbox := rfl
@[simp] theorem frameRegisters_returns (f : Frame) (s : State) : (frameRegisters f s).returns = s.returns := rfl

/-! ### A well-formed frame -/

theorem Frame_wf_iff (f : Frame) :
    f.wf = true ↔ f.payload.length = wireLen (frameLen f) f.mode ∧ atohex f.crc.toList = frameCrc f := by
  simp [Frame.wf]

/-- A state with the registers a delivered frame leaves has read the frame. -/
theorem frameRead_of_registers {f : Frame} {s t : State} (hl : f.payload.length = wireLen (frameLen f) f.mode)
    (hw : Memory.wf s.pbuf = true) (hhdr : t.hdr = headerVector f) (hhidx : t.hidx = 20) (hcmd : t.reqCmd = f.cmd)
    (harg0 : t.reqArg0 = atohex f.arg0.toList) (hlen : t.reqLen = atohex f.len.toList) (hmode : t.reqMode = f.mode)
    (hresp : t.respMode = f.mode) (hcrc : t.crcAcc = frameCrc f) (hpcnt : t.pcnt = frameLen f) (hphase : t.phase = 0)
    (htrl : t.trl = f.crc) (htidx : t.tidx = 8)
    (hhold : t.hold = if f.mode = .hex then lastHigh f.payload s.hold else s.hold)
    (hpbuf : t.pbuf = fillBuffer s.params.payloadMax s.pbuf 0 (framePayload f)) : frameRead f s t := by
  refine ⟨by rw [hhdr]; rfl, hhidx, hcmd, harg0, hlen, hmode, hresp, hcrc, hpcnt, hphase, htrl, htidx, ?_, ?_⟩
  · intro hm
    rw [hhold, hm, if_neg (by decide)]
  · intro i
    rw [hpbuf, read_fillBuffer _ _ hw]
    simp [framePayload_length f hl]

/-- The payload a frame that fits PBUF leaves there (R191, R192). -/
theorem requestPayload_frameRegisters (f : Frame) (s : State)
    (hl : f.payload.length = wireLen (frameLen f) f.mode) (hw : Memory.wf s.pbuf = true)
    (hle : frameLen f ≤ s.params.payloadMax) : requestPayload (frameRegisters f s) = framePayload f := by
  have hp := framePayload_length f hl
  have e : (frameRegisters f s).reqLen.toNat = (framePayload f).length := by rw [hp]; rfl
  rw [requestPayload, e]
  exact readBytes_fillBuffer _ _ _ hw (by omega)

/-- A well-formed frame that does not fit PBUF ends as oversize (R141). -/
theorem deliver_oversize_frame (f : Frame) (s : State) (hi : idle s) (hw : f.wf = true)
    (hlt : s.params.payloadMax < frameLen f) :
    deliver (frameBytes f) s = errorEntry .oversize (frameRegisters f s) := by
  obtain ⟨hl, hc⟩ := (Frame_wf_iff f).mp hw
  rw [deliver_frame f s hi.1 hi.2 hl, frameDecision, if_pos (by exact hc), crcMatched, if_pos (by exact hlt)]

/-- A well-formed frame that fits PBUF comes to its routing (R190). -/
theorem deliver_fitting_frame (f : Frame) (s : State) (hi : idle s) (hw : f.wf = true)
    (hle : frameLen f ≤ s.params.payloadMax) :
    deliver (frameBytes f) s = routeFrame (frameRegisters f s) := by
  obtain ⟨hl, hc⟩ := (Frame_wf_iff f).mp hw
  have hfit : ¬ (frameRegisters f s).reqLen.toNat > (frameRegisters f s).params.payloadMax := by
    have : ¬ frameLen f > s.params.payloadMax := by omega
    exact this
  rw [deliver_frame f s hi.1 hi.2 hl, frameDecision, if_pos (by exact hc), crcMatched, if_neg hfit]

end Sys2Proof.Machine
end

