-- ==== Sys2Proof/Laws/Ots.lean ====
section
/-! SUPPORT. The OTP tag scanner: what a record's fields are, one record of the scan (spec/44_otp_tags.md R222 to R225), and
all that the copy of a chain can do (R226 to R231). -/

namespace Sys2Proof.Machine

theorem recordSize_lt (raw : Vector Byte 8) : recordSize raw < 8 := (raw[7].extractLsb' 5 3).isLt

theorem recordSize_eq (raw : Vector Byte 8) : recordSize raw = raw[7].toNat / 32 := by
  have := raw[7].isLt
  simp only [recordSize, BitVec.extractLsb'_toNat, Nat.shiftRight_eq_div_pow]
  omega

theorem recordValid_iff (raw : Vector Byte 8) : recordValid raw = true ↔ 1 ≤ recordSize raw ∧ recordSize raw ≤ 6 := by
  simp [recordValid]

theorem recordValue_of_valid {raw : Vector Byte 8} (h : recordValid raw = true) :
    recordValue raw = raw.toList.take (recordSize raw) := by
  rw [recordValue, if_pos h]

theorem recordValue_length {raw : Vector Byte 8} (h : recordValid raw = true) :
    (recordValue raw).length = recordSize raw := by
  have := recordSize_lt raw
  rw [recordValue_of_valid h]
  simp
  omega

/-! ### The scan, one record at a time -/

theorem otpScan_end (s : State) (tag : U32) (fuel off : Nat) (skip : Bool) (h : Config.tagEnd ≤ off) :
    otpScan s tag fuel off skip = .absent := by
  cases fuel with
  | zero => rfl
  | succ fuel => rw [otpScan, if_pos h]

theorem otpScan_unreadable (s : State) (tag : U32) (fuel off : Nat) (skip : Bool) (h : off < Config.tagEnd)
    (hr : otpRead s off = none) : otpScan s tag (fuel + 1) off skip = .failed := by
  rw [otpScan, if_neg (by omega), hr]

theorem otpScan_found (s : State) (tag : U32) (fuel off : Nat) {raw : Vector Byte 8} (h : off < Config.tagEnd)
    (hr : otpRead s off = some raw) (hv : recordValid raw = true)
    (ht : (recordTag s.params.tagIdB7Bit raw).setWidth 32 = tag) :
    otpScan s tag (fuel + 1) off false = .found raw off := by
  rw [otpScan, if_neg (by omega), hr]
  simp [otpDecode, hv, ht]

/-- A record of another tag's chain (R225). -/
theorem otpScan_other (s : State) (tag : U32) (fuel off : Nat) {raw : Vector Byte 8} (h : off < Config.tagEnd)
    (hr : otpRead s off = some raw) (hv : recordValid raw = true)
    (ht : (recordTag s.params.tagIdB7Bit raw).setWidth 32 ≠ tag) :
    otpScan s tag (fuel + 1) off false = otpScan s tag fuel (off + 8) (recordCont raw) := by
  rw [otpScan, if_neg (by omega), hr]
  simp [otpDecode, hv, ht, Config.recSize]

/-- An invalid record (R223). -/
theorem otpScan_invalid (s : State) (tag : U32) (fuel off : Nat) {raw : Vector Byte 8} (h : off < Config.tagEnd)
    (hr : otpRead s off = some raw) (hv : recordValid raw = false) :
    otpScan s tag (fuel + 1) off false = otpScan s tag fuel (off + 8) false := by
  rw [otpScan, if_neg (by omega), hr]
  simp [otpDecode, hv, Config.recSize]

/-- A record to skip (R225). -/
theorem otpScan_skipped (s : State) (tag : U32) (fuel off : Nat) {raw : Vector Byte 8} (h : off < Config.tagEnd)
    (hr : otpRead s off = some raw) :
    otpScan s tag (fuel + 1) off true = otpScan s tag fuel (off + 8) (recordCont raw) := by
  rw [otpScan, if_neg (by omega), hr]
  simp [otpDecode, Config.recSize]

/-! ### The copy of a chain, one record at a time -/

/-- The copy ends with a count: the chain ends here, or the buffer is full (R229). -/
theorem otpCopy_done (s : State) (base bufSize fuel : Nat) (raw : Vector Byte 8) (off total : Nat) (mem : Memory)
    (h : recordCont raw = false ∨ total + min (recordSize raw) (bufSize - total) = bufSize) :
    otpCopy s base bufSize (fuel + 1) raw off total mem
      = (.count (total + min (recordSize raw) (bufSize - total)),
         Memory.writeBytes mem (base + total) (raw.toList.take (min (recordSize raw) (bufSize - total)))) := by
  rw [otpCopy, if_pos h]

/-- The copy goes on at a valid continuation record (R228): the whole value of this one was copied. -/
theorem otpCopy_next (s : State) (base bufSize fuel : Nat) {raw next : Vector Byte 8} (off total : Nat) (mem : Memory)
    (hv : recordValid raw = true) (hc : recordCont raw = true) (hs : total + recordSize raw < bufSize)
    (hoff : off + 8 < Config.tagEnd) (hr : otpRead s (off + 8) = some next) (hn : recordValid next = true) :
    otpCopy s base bufSize (fuel + 1) raw off total mem
      = otpCopy s base bufSize fuel next (off + 8) (total + recordSize raw)
          (Memory.writeBytes mem (base + total) (recordValue raw)) := by
  have hmin : min (recordSize raw) (bufSize - total) = recordSize raw := by omega
  have hr' : otpRead s (off + Config.recSize) = some next := hr
  rw [otpCopy, hmin, if_neg (by simp [hc]; omega),
    if_neg (show ¬ off + Config.recSize ≥ Config.tagEnd from Nat.not_le.mpr hoff), hr']
  simp [hn, recordValue_of_valid hv, Config.recSize]

/-- The copy breaks off at the end of the region (-EBADF) or at an unreadable or invalid continuation record (-EIO), with
this record's value copied (R228, R229). -/
theorem otpCopy_broken (s : State) (base bufSize fuel : Nat) {raw : Vector Byte 8} (off total : Nat) (mem : Memory)
    (hv : recordValid raw = true) (hc : recordCont raw = true) (hs : total + recordSize raw < bufSize)
    (h : Config.tagEnd ≤ off + 8 ∨ otpRead s (off + 8) = none ∨
      ∃ x, otpRead s (off + 8) = some x ∧ recordValid x = false) :
    otpCopy s base bufSize (fuel + 1) raw off total mem
      = (if Config.tagEnd ≤ off + 8 then .ebadf else .eio, Memory.writeBytes mem (base + total) (recordValue raw)) := by
  have hmin : min (recordSize raw) (bufSize - total) = recordSize raw := by omega
  rw [otpCopy, hmin, if_neg (by simp [hc]; omega), recordValue_of_valid hv]
  by_cases he : Config.tagEnd ≤ off + 8
  · rw [if_pos (show off + Config.recSize ≥ Config.tagEnd from he), if_pos he]
  · rw [if_neg (show ¬ off + Config.recSize ≥ Config.tagEnd from he), if_neg he,
      show off + Config.recSize = off + 8 from rfl]
    rcases h with h | h | ⟨x, hx, hxv⟩
    · exact absurd h he
    · rw [h]
    · rw [hx]; simp [hxv]

/-! ### What the copy keeps -/

/-- Everything a copy keeps (R226, R227, R53): the CALLER space stays canonical, a byte outside the buffer is as it was, a byte
below `base + total` is as it was, the status is a count of at most `bufSize`, -EIO or -EBADF. -/
theorem otpCopy_frame (s : State) (base bufSize fuel : Nat) (raw : Vector Byte 8) (off total : Nat) (mem : Memory)
    (hm : Memory.wf mem = true) (ht : total ≤ bufSize) :
    let r := otpCopy s base bufSize fuel raw off total mem
    Memory.wf r.2 = true ∧
    (∀ a, a < base + total ∨ base + bufSize ≤ a → Memory.read r.2 a = Memory.read mem a) ∧
    ((∃ n, r.1 = .count n ∧ n ≤ bufSize) ∨ r.1 = .eio ∨ r.1 = .ebadf) := by
  induction fuel generalizing raw off total mem with
  | zero => exact ⟨hm, fun _ _ => rfl, .inr (.inr rfl)⟩
  | succ fuel ih =>
    intro r
    have hn : min (recordSize raw) (bufSize - total) ≤ bufSize - total := Nat.min_le_right _ _
    have hdef : r = otpCopy s base bufSize (fuel + 1) raw off total mem := rfl
    clear_value r
    rw [otpCopy] at hdef
    generalize min (recordSize raw) (bufSize - total) = n at hn hdef
    have hw : Memory.wf (Memory.writeBytes mem (base + total) (raw.toList.take n)) = true :=
      Memory.wf_writeBytes _ _ hm
    have hlen : (raw.toList.take n).length ≤ n := by simp
    have hread : ∀ a, a < base + total ∨ base + bufSize ≤ a →
        Memory.read (Memory.writeBytes mem (base + total) (raw.toList.take n)) a = Memory.read mem a := by
      intro a ha
      rw [Memory.read_writeBytes hm, if_neg (by omega)]
    generalize Memory.writeBytes mem (base + total) (raw.toList.take n) = mem' at hdef hw hread
    split_ifs at hdef with h1 h2
    · rw [hdef]; exact ⟨hw, hread, .inl ⟨_, rfl, by omega⟩⟩
    · rw [hdef]; exact ⟨hw, hread, .inr (.inr rfl)⟩
    · split at hdef
      · rw [hdef]; exact ⟨hw, hread, .inr (.inl rfl)⟩
      · split_ifs at hdef with h3
        · obtain ⟨k1, k2, k3⟩ := ih _ (off + Config.recSize) (total + n) mem' hw (by omega)
          rw [hdef]
          exact ⟨k1, fun a ha => (k2 a (by omega)).trans (hread a ha), k3⟩
        · rw [hdef]; exact ⟨hw, hread, .inr (.inl rfl)⟩

/-- Everything OTP_GET_VALUE keeps (R226, R53). -/
theorem otpGetValue_frame (raw : Vector Byte 8) (offset base bufSize : Nat) (s : State)
    (hm : Memory.wf s.caller = true) :
    let r := otpGetValue raw offset base bufSize s
    Memory.wf r.2 = true ∧
    (∀ a, a < base ∨ base + bufSize ≤ a → Memory.read r.2 a = Memory.read s.caller a) ∧
    ((∃ n, r.1 = .count n ∧ n ≤ bufSize) ∨ r.1 = .eio ∨ r.1 = .ebadf) := by
  simp only [otpGetValue]
  split_ifs
  · exact ⟨hm, fun _ _ => rfl, .inr (.inr rfl)⟩
  · exact ⟨hm, fun _ _ => rfl, .inr (.inl rfl)⟩
  · obtain ⟨k1, k2, k3⟩ := otpCopy_frame s base bufSize ((Config.tagEnd - offset) / Config.recSize) raw offset 0
      (Memory.zeroFill s.caller base bufSize) (Memory.wf_zeroFill _ _ hm) (Nat.zero_le _)
    refine ⟨k1, fun a ha => ?_, k3⟩
    rw [k2 a (by omega), Memory.read_zeroFill hm, if_neg (by omega)]

/-- Everything OTP_GET keeps (R222, R230, R231). -/
theorem otpGet_frame (tag : U32) (base bufSize : Nat) (s : State) (hm : Memory.wf s.caller = true) :
    let r := otpGet tag base bufSize s
    Memory.wf r.2 = true ∧
    (∀ a, a < base ∨ base + bufSize ≤ a → Memory.read r.2 a = Memory.read s.caller a) ∧
    ((∃ n, r.1 = .count n ∧ n ≤ bufSize) ∨ r.1 = .eio ∨ r.1 = .ebadf ∨ r = (.enoent, s.caller)) := by
  simp only [otpGet]
  split
  · obtain ⟨k1, k2, k3⟩ := otpGetValue_frame ‹_› ‹_› base bufSize s hm
    exact ⟨k1, k2, k3.imp id fun h => h.imp id .inl⟩
  · exact ⟨hm, fun _ _ => rfl, .inr (.inr (.inr rfl))⟩
  · exact ⟨hm, fun _ _ => rfl, .inr (.inl rfl)⟩

end Sys2Proof.Machine
end

