-- ==== Sys2Proof/Laws/PerInstr.lean ====
section
/-! SUPPORT. One law per instruction: its encoding has the format and the fixed bits of its row of
spec/opcode_table.json. -/

namespace Sys2Proof.Laws

/-- The fixed bits of an operation: its code (R84). -/
def isOp (code : Byte) (t : Transaction) : Prop := t.format = .op ∧ t.bytes.head? = some code

/-- The fixed bits of a frame: SOF, the command byte, the first separator (R70, R71). -/
def isFrame (format : Format) (cmd : Byte) (t : Transaction) : Prop :=
  t.format = format ∧ t.bytes.take 3 = [0x3E#8, cmd, 0x2C#8]

/-- The fixed bits of a record: 8 bytes, the size field in bits 7..5 of the last (R80). -/
def isRecord (sizeBits : Byte) (t : Transaction) : Prop :=
  t.format = .record ∧ t.bytes.length = 8 ∧ (t.bytes.getD 7 0#8) &&& 0xE0#8 = sizeBits

/-- The format and the fixed bits of an instruction's row. -/
def RowBits.Statement (i : Instr) : Prop :=
  match i with
  | .crc32c _ _ => isOp 0x01#8 (encode i)
  | .hex2nibble _ => isOp 0x02#8 (encode i)
  | .atohex _ => isOp 0x03#8 (encode i)
  | .hex2str _ => isOp 0x04#8 (encode i)
  | .pairEncode _ => isOp 0x05#8 (encode i)
  | .pairDecode _ _ => isOp 0x06#8 (encode i)
  | .frameEncode _ _ _ _ => isOp 0x07#8 (encode i)
  | .rxByte _ => isOp 0x10#8 (encode i)
  | .dispatchResponse _ _ _ => isOp 0x11#8 (encode i)
  | .reset => isOp 0x12#8 (encode i)
  | .otpDecode _ => isOp 0x20#8 (encode i)
  | .otpGet _ _ _ => isOp 0x21#8 (encode i)
  | .otpGetValue _ _ _ _ => isOp 0x22#8 (encode i)
  | .respAck _ _ _ => isFrame .frameTx 0x41#8 (encode i)
  | .respNack _ _ _ => isFrame .frameTx 0x4E#8 (encode i)
  | .reqData f => isFrame .frameRx f.cmd (encode i)
  | .reqXferStart f => isFrame .frameRx f.cmd (encode i)
  | .reqCont f => isFrame .frameRx f.cmd (encode i)
  | .reqDispatch f => isFrame .frameRx f.cmd (encode i)
  | .frameGarbled hdr => encode i = ⟨.header, hdr.toList⟩
  | .delimHex => encode i = ⟨.delim, [0x23#8]⟩
  | .delimBin => encode i = ⟨.delim, [0x25#8]⟩
  | .otpRecInvalidSize0 _ => isRecord 0x00#8 (encode i)
  | .otpRecSize1 _ => isRecord 0x20#8 (encode i)
  | .otpRecSize2 _ => isRecord 0x40#8 (encode i)
  | .otpRecSize3 _ => isRecord 0x60#8 (encode i)
  | .otpRecSize4 _ => isRecord 0x80#8 (encode i)
  | .otpRecSize5 _ => isRecord 0xA0#8 (encode i)
  | .otpRecSize6 _ => isRecord 0xC0#8 (encode i)
  | .otpRecInvalidSize7 _ => isRecord 0xE0#8 (encode i)

/-- Byte 7 of a record holds its size in bits 7..5, whatever cont and the low bits are. -/
theorem sizeBits_of_byte7 : ∀ (size : BitVec 3) (cont : BitVec 1) (low : BitVec 4),
    ((size ++ cont) ++ low) &&& 0xE0#8 = (size ++ 0#1) ++ 0#4 := by decide

theorem isRecord_encodeRecord (size : BitVec 3) (r : RecordBody) :
    isRecord ((size ++ 0#1) ++ 0#4) (encodeRecord size r) :=
  ⟨rfl, rfl, sizeBits_of_byte7 size r.cont r.low⟩

theorem isFrame_frameBytes (f : Frame) : isFrame .frameRx f.cmd ⟨.frameRx, Machine.frameBytes f⟩ := ⟨rfl, rfl⟩

theorem RowBits.crc32c (seed : U32) (data : List Byte) : RowBits.Statement (.crc32c seed data) := ⟨rfl, rfl⟩
theorem RowBits.hex2nibble (ch : Byte) : RowBits.Statement (.hex2nibble ch) := ⟨rfl, rfl⟩
theorem RowBits.atohex (chars : List Byte) : RowBits.Statement (.atohex chars) := ⟨rfl, rfl⟩
theorem RowBits.hex2str (v : U32) : RowBits.Statement (.hex2str v) := ⟨rfl, rfl⟩
theorem RowBits.pairEncode (b : Byte) : RowBits.Statement (.pairEncode b) := ⟨rfl, rfl⟩
theorem RowBits.pairDecode (hi lo : Byte) : RowBits.Statement (.pairDecode hi lo) := ⟨rfl, rfl⟩
theorem RowBits.frameEncode (cmd : Byte) (arg0 : U32) (payload : List Byte) (mode : Mode) :
    RowBits.Statement (.frameEncode cmd arg0 payload mode) := ⟨rfl, rfl⟩
theorem RowBits.rxByte (b : Byte) : RowBits.Statement (.rxByte b) := ⟨rfl, rfl⟩
theorem RowBits.dispatchResponse (kind : Kind) (arg0 : U32) (payload : List Byte) :
    RowBits.Statement (.dispatchResponse kind arg0 payload) := ⟨rfl, rfl⟩
theorem RowBits.reset : RowBits.Statement .reset := ⟨rfl, rfl⟩
theorem RowBits.otpDecode (raw : Vector Byte 8) : RowBits.Statement (.otpDecode raw) := ⟨rfl, rfl⟩
theorem RowBits.otpGet (tag : U32) (base bufSize : Nat) : RowBits.Statement (.otpGet tag base bufSize) := ⟨rfl, rfl⟩
theorem RowBits.otpGetValue (raw : Vector Byte 8) (offset base bufSize : Nat) :
    RowBits.Statement (.otpGetValue raw offset base bufSize) := ⟨rfl, rfl⟩
theorem RowBits.respAck (arg0 : U32) (payload : List Byte) (mode : Mode) :
    RowBits.Statement (.respAck arg0 payload mode) := ⟨rfl, rfl⟩
theorem RowBits.respNack (arg0 : U32) (payload : List Byte) (mode : Mode) :
    RowBits.Statement (.respNack arg0 payload mode) := ⟨rfl, rfl⟩
theorem RowBits.reqData (f : Frame) : RowBits.Statement (.reqData f) := isFrame_frameBytes f
theorem RowBits.reqXferStart (f : Frame) : RowBits.Statement (.reqXferStart f) := isFrame_frameBytes f
theorem RowBits.reqCont (f : Frame) : RowBits.Statement (.reqCont f) := isFrame_frameBytes f
theorem RowBits.reqDispatch (f : Frame) : RowBits.Statement (.reqDispatch f) := isFrame_frameBytes f
theorem RowBits.frameGarbled (hdr : Vector Byte 20) : RowBits.Statement (.frameGarbled hdr) := rfl
theorem RowBits.delimHex : RowBits.Statement .delimHex := rfl
theorem RowBits.delimBin : RowBits.Statement .delimBin := rfl
theorem RowBits.otpRecInvalidSize0 (r : RecordBody) : RowBits.Statement (.otpRecInvalidSize0 r) :=
  isRecord_encodeRecord 0#3 r
theorem RowBits.otpRecSize1 (r : RecordBody) : RowBits.Statement (.otpRecSize1 r) := isRecord_encodeRecord 1#3 r
theorem RowBits.otpRecSize2 (r : RecordBody) : RowBits.Statement (.otpRecSize2 r) := isRecord_encodeRecord 2#3 r
theorem RowBits.otpRecSize3 (r : RecordBody) : RowBits.Statement (.otpRecSize3 r) := isRecord_encodeRecord 3#3 r
theorem RowBits.otpRecSize4 (r : RecordBody) : RowBits.Statement (.otpRecSize4 r) := isRecord_encodeRecord 4#3 r
theorem RowBits.otpRecSize5 (r : RecordBody) : RowBits.Statement (.otpRecSize5 r) := isRecord_encodeRecord 5#3 r
theorem RowBits.otpRecSize6 (r : RecordBody) : RowBits.Statement (.otpRecSize6 r) := isRecord_encodeRecord 6#3 r
theorem RowBits.otpRecInvalidSize7 (r : RecordBody) : RowBits.Statement (.otpRecInvalidSize7 r) :=
  isRecord_encodeRecord 7#3 r

end Sys2Proof.Laws
end

