-- ==== Sys2Proof/Laws/Surroundings.lean ====
section
/-! SUPPORT. What no engine step touches (spec/00_scope.md R5, spec/10_state.md R33, R37): the parameters, the launch inputs,
CALLER, the results, and the inbox. -/

namespace Sys2Proof.Machine

theorem sameSurroundings.refl (s : State) : sameSurroundings s s := ⟨rfl, rfl, rfl, rfl, rfl, rfl⟩

theorem sameSurroundings.trans {s t u : State} (h : sameSurroundings s t) (k : sameSurroundings t u) :
    sameSurroundings s u := by
  obtain ⟨h1, h2, h3, h4, h5, h6⟩ := h
  obtain ⟨k1, k2, k3, k4, k5, k6⟩ := k
  exact ⟨k1.trans h1, k2.trans h2, k3.trans h3, k4.trans h4, k5.trans h5, k6.trans h6⟩

theorem frameDecision_surroundings (s : State) :
    sameSurroundings s (frameDecision s) ∧ (frameDecision s).rx = s.rx := by
  unfold frameDecision crcMatched routeFrame dataSequencer acceptChunk dispatchRequest restartTransfer
  split_ifs <;> simp [sameSurroundings]

theorem checkHeader_surroundings (s : State) : sameSurroundings s (checkHeader s) ∧ (checkHeader s).rx = s.rx := by
  unfold checkHeader garbledHeader acceptHeader
  split_ifs <;> simp [sameSurroundings]

theorem payloadDone_surroundings (s : State) : sameSurroundings s (payloadDone s) ∧ (payloadDone s).rx = s.rx := by
  unfold payloadDone
  split_ifs <;> simp [sameSurroundings]

/-- One receive step (R130) touches nothing outside the engine, DEST and the transmit log. -/
theorem rxRule_surroundings (b : Byte) (s : State) : sameSurroundings s (rxRule b s) ∧ (rxRule b s).rx = s.rx := by
  unfold rxRule
  split
  · unfold rxAwaitSof; split_ifs <;> simp [sameSurroundings]
  · unfold rxHeader
    split_ifs
    · exact checkHeader_surroundings (storeHeader b s)
    · simp [sameSurroundings]
  · split
    · exact payloadDone_surroundings (storePayload b (foldCrc b s))
    · unfold rxPayloadHex
      split_ifs
      · simp [sameSurroundings]
      · exact payloadDone_surroundings (pairDone (storePayload (pairDecode s.hold b) (foldCrc b s)))
  · unfold rxTrailer
    split_ifs
    · exact frameDecision_surroundings (goto .awaitSof (storeTrailer b s))
    · simp [sameSurroundings]
  · exact ⟨sameSurroundings.refl s, rfl⟩
  · exact ⟨sameSurroundings.refl s, rfl⟩

theorem engineTake_surroundings (s : State) : sameSurroundings s (engineTake s) := by
  unfold engineTake
  split_ifs
  · split
    · exact sameSurroundings.refl s
    · exact (rxRule_surroundings _ _).1
  · exact sameSurroundings.refl s

theorem receive_surroundings (b : Byte) (s : State) : sameSurroundings s (receive b s) :=
  engineTake_surroundings { s with rx := s.rx ++ [b] }

theorem deliver_surroundings (bs : List Byte) (s : State) : sameSurroundings s (deliver bs s) := by
  induction bs generalizing s with
  | nil => exact sameSurroundings.refl s
  | cons b bs ih => exact (receive_surroundings b s).trans (ih (receive b s))

/-! ### A receive step does not look at the rest of the queue (R54), the inbox, CALLER or the results (R5, R62) -/

/-- The state with another queue, inbox, CALLER space and results. -/
def outside (r : List Byte) (i : List Transaction) (c : Memory) (l : List OpResult) (s : State) : State :=
  { s with rx := r, inbox := i, caller := c, returns := l }

theorem frameDecision_outside (r : List Byte) (i : List Transaction) (c : Memory) (l : List OpResult) (s : State) :
    frameDecision (outside r i c l s) = outside r i c l (frameDecision s) := by
  unfold frameDecision crcMatched routeFrame dataSequencer outside
  simp only
  split_ifs <;> first | rfl | skip
  all_goals
    unfold restartTransfer
    simp only
    split_ifs <;> rfl

theorem checkHeader_outside (r : List Byte) (i : List Transaction) (c : Memory) (l : List OpResult) (s : State) :
    checkHeader (outside r i c l s) = outside r i c l (checkHeader s) := by
  unfold checkHeader garbledHeader outside
  simp only
  split_ifs <;> rfl

theorem payloadDone_outside (r : List Byte) (i : List Transaction) (c : Memory) (l : List OpResult) (s : State) :
    payloadDone (outside r i c l s) = outside r i c l (payloadDone s) := by
  unfold payloadDone outside
  simp only
  split_ifs <;> rfl

theorem rxRule_outside (b : Byte) (r : List Byte) (i : List Transaction) (c : Memory) (l : List OpResult) (s : State) :
    rxRule b (outside r i c l s) = outside r i c l (rxRule b s) := by
  unfold rxRule
  simp only [outside]
  split
  · unfold rxAwaitSof; split_ifs <;> rfl
  · unfold rxHeader
    by_cases h : (storeHeader b s).hidx = Config.hdrLen
    · rw [if_pos (by exact h), if_pos h]; exact checkHeader_outside r i c l (storeHeader b s)
    · rw [if_neg (by exact h), if_neg h]; rfl
  · split
    · exact payloadDone_outside r i c l (storePayload b (foldCrc b s))
    · unfold rxPayloadHex
      by_cases h : s.phase = 0
      · rw [if_pos (by exact h), if_pos h]; rfl
      · rw [if_neg (by exact h), if_neg h]
        exact payloadDone_outside r i c l (pairDone (storePayload (pairDecode s.hold b) (foldCrc b s)))
  · unfold rxTrailer
    by_cases h : (storeTrailer b s).tidx = Config.trailerLen
    · rw [if_pos (by exact h), if_pos h]; exact frameDecision_outside r i c l (goto .awaitSof (storeTrailer b s))
    · rw [if_neg (by exact h), if_neg h]; rfl
  · rfl
  · rfl

theorem rxRule_rx (b : Byte) (r : List Byte) (s : State) :
    rxRule b { s with rx := r } = { rxRule b s with rx := r } := by
  obtain ⟨⟨_, _, _, h4, h5, h6⟩, _⟩ := rxRule_surroundings b s
  have h := rxRule_outside b r s.inbox s.caller s.returns s
  simp only [outside] at h
  rw [h, ← h4, ← h5, ← h6]

theorem engineTake_outside (i : List Transaction) (c : Memory) (l : List OpResult) (s : State) :
    engineTake { s with inbox := i, caller := c, returns := l }
      = { engineTake s with inbox := i, caller := c, returns := l } := by
  unfold engineTake
  by_cases h : takesByte s = true
  · rw [if_pos (by exact h), if_pos h]
    simp only
    split
    · rfl
    · rename_i b rest _
      have hr : (rxRule b { s with rx := rest }).rx = rest := (rxRule_surroundings b { s with rx := rest }).2
      have ho := rxRule_outside b rest i c l { s with rx := rest }
      simp only [outside] at ho
      rw [ho]
      apply State.ext <;> first | rfl | exact hr.symm
  · rw [if_neg (by exact h), if_neg h]

theorem receive_outside (b : Byte) (i : List Transaction) (c : Memory) (l : List OpResult) (s : State) :
    receive b { s with inbox := i, caller := c, returns := l }
      = { receive b s with inbox := i, caller := c, returns := l } :=
  engineTake_outside i c l { s with rx := s.rx ++ [b] }

theorem deliver_outside (bs : List Byte) (i : List Transaction) (c : Memory) (l : List OpResult) (s : State) :
    deliver bs { s with inbox := i, caller := c, returns := l }
      = { deliver bs s with inbox := i, caller := c, returns := l } := by
  induction bs generalizing s with
  | nil => rfl
  | cons b bs ih => rw [deliver, receive_outside, ih, deliver]

end Sys2Proof.Machine
end

