-- ==== Sys2Proof/Tests/Slice0.lean ====
section
/-! SUPPORT. The model's own tests. Expected values are those of spec/95_test_vectors.md or are written out from the layouts
of spec/30_encoding.md; the witnesses show that the hypotheses of the obligations can be met. -/

namespace Sys2Proof.Tests

open Sys2Proof.Machine

set_option Elab.async false

/-! ### Helpers -/

/-- The bytes of wire text (R11). -/
def ascii (text : String) : List Byte := text.toList.map fun c => BitVec.ofNat 8 c.toNat

/-- The transmit events of one response frame and its flush. -/
def events (text : String) : List TxEvent := (ascii text).map TxEvent.byte ++ [.flush]

/-- What `f` reads from the state after a step, if there is one. -/
def after {α : Type} (o : Host.Outcome State Fault Refusal) (f : State → α) : Option α :=
  match o with
  | .next s => some (f s)
  | _ => none

/-- The 8 characters "00000000". -/
def zeros : Vector Byte 8 := Vector.replicate 8 0x30#8

/-- The characters "0000000d" for a digit character. -/
def digit (d : Byte) : Vector Byte 8 := zeros.setIfInBounds 7 d

/-- The vector suite's parameters with `CMD_DATA = 'D'`, `CMD_XFER_START = 'S'`, `CMD_CONT = 'C'`. -/
def codes : Params := { Params.default with cmdData := some 0x44#8, cmdXferStart := some 0x53#8, cmdCont := some 0x43#8 }

/-- Reset, with those parameters. -/
def idleState : State := { State.reset with params := codes }

/-- `>D,00000000,00000002%\x01\x0229D736A7` (vector DS-8). -/
def dataFrame : Frame := ⟨0x44#8, zeros, digit 0x32#8, .bin, [0x01#8, 0x02#8],
  #v[0x32#8, 0x39#8, 0x44#8, 0x37#8, 0x33#8, 0x36#8, 0x41#8, 0x37#8]⟩

/-- `>S,00000000,00000000#6196A982` (vector DS-8). -/
def startFrame : Frame := ⟨0x53#8, zeros, zeros, .hex, [],
  #v[0x36#8, 0x31#8, 0x39#8, 0x36#8, 0x41#8, 0x39#8, 0x38#8, 0x32#8]⟩

/-- `>C,00000000,00000000#1B9D4941` (vector DX-3). -/
def contFrame : Frame := ⟨0x43#8, zeros, zeros, .hex, [],
  #v[0x31#8, 0x42#8, 0x39#8, 0x44#8, 0x34#8, 0x39#8, 0x34#8, 0x31#8]⟩

/-- `>W,00000000,00000001#g16799F251` (vector RX-10). -/
def otherFrame : Frame := ⟨0x57#8, zeros, digit 0x31#8, .hex, [0x67#8, 0x31#8],
  #v[0x36#8, 0x37#8, 0x39#8, 0x39#8, 0x46#8, 0x32#8, 0x35#8, 0x31#8]⟩

/-- The header `V,00000000,00000000` and a delimiter byte. -/
def headerWith (delim : Byte) : Vector Byte 20 :=
  #v[0x56#8, 0x2C#8, 0x30#8, 0x30#8, 0x30#8, 0x30#8, 0x30#8, 0x30#8, 0x30#8, 0x30#8,
    0x2C#8, 0x30#8, 0x30#8, 0x30#8, 0x30#8, 0x30#8, 0x30#8, 0x30#8, 0x30#8, delim]

/-- The header `S;00000000,00000000#` of vector RX-2. -/
def garbled : Vector Byte 20 := (headerWith 0x23#8).setIfInBounds 0 0x53#8 |>.setIfInBounds 1 0x3B#8

/-- READ_HEADER with 19 bytes of a good header stored. -/
def header19 : State := { idleState with fsm := .readHeader, hdr := headerWith 0#8, hidx := 19 }

/-- READ_CRC with 7 zeros of the trailer stored and a CRC of 0: one more `0` accepts the frame. -/
def trailer7 (cmd : Byte) : State :=
  { idleState with fsm := .readCrc, trl := zeros, tidx := 7, reqCmd := cmd, reqLen := 2#32, pcnt := 2, dataExpected := 7,
                   reqArg0 := 7#32 }

/-- DISPATCH_WAIT with a pending request. -/
def waiting (cmd : Byte) : State := { idleState with fsm := .dispatchWait, pending := some ⟨cmd, 0#32, 0#32, [], .hex⟩ }

/-- The tag A record of image OTP-L1. -/
def recA : Vector Byte 8 := #v[0xA1#8, 0xA2#8, 0xA3#8, 0x00#8, 0x00#8, 0x00#8, 0x01#8, 0x60#8]
/-- Its invalid record. -/
def recI : Vector Byte 8 := #v[0x11#8, 0x22#8, 0x33#8, 0x44#8, 0x55#8, 0x66#8, 0x55#8, 0xE0#8]
/-- The head of its tag B chain. -/
def recB1 : Vector Byte 8 := #v[0xB1#8, 0xB2#8, 0xB3#8, 0xB4#8, 0xB5#8, 0xB6#8, 0x02#8, 0xD1#8]
/-- The end of its tag B chain. -/
def recB2 : Vector Byte 8 := #v[0xB7#8, 0xB8#8, 0xB9#8, 0xBA#8, 0x00#8, 0x00#8, 0x02#8, 0x81#8]

/-- Reset with the image OTP-L1 and the given failing offsets. -/
def otpState (bad : List Nat) : State :=
  { State.reset with
    otpImage := Memory.writeBytes [] 4096 (recA.toList ++ recI.toList ++ recB1.toList ++ recB2.toList)
    otpBad := bad }

/-! ### WellFormed refuses an ill-formed term for each check -/

theorem payloadFits_long (n : Nat) (h : 2 ^ 32 ≤ n) : payloadFits (List.replicate n 0#8) = false := by
  simp only [payloadFits, List.length_replicate]
  exact decide_eq_false (by omega)

/-- A payload of 2^32 bytes is ill formed in each of the four instructions that carry one. -/
theorem test_wf_payload_too_long (n : Nat) (h : 2 ^ 32 ≤ n) :
    Instr.wf codes (.frameEncode 0x41#8 0#32 (List.replicate n 0#8) .hex) = false ∧
    Instr.wf codes (.dispatchResponse .ack 0#32 (List.replicate n 0#8)) = false ∧
    Instr.wf codes (.respAck 0#32 (List.replicate n 0#8) .hex) = false ∧
    Instr.wf codes (.respNack 0#32 (List.replicate n 0#8) .hex) = false :=
  ⟨payloadFits_long n h, payloadFits_long n h, payloadFits_long n h, payloadFits_long n h⟩

theorem test_wf_frame_length : Instr.wf codes (.reqData { dataFrame with payload := [0x01#8] }) = false := by
  decide +kernel

theorem test_wf_frame_crc : Instr.wf codes (.reqData { dataFrame with crc := zeros }) = false := by decide +kernel

theorem test_wf_frame_command :
    Instr.wf codes (.reqData startFrame) = false ∧ Instr.wf codes (.reqXferStart dataFrame) = false ∧
    Instr.wf codes (.reqXferStart contFrame) = false ∧ Instr.wf codes (.reqCont dataFrame) = false ∧
    Instr.wf codes (.reqCont startFrame) = false ∧ Instr.wf codes (.reqCont otherFrame) = false ∧
    Instr.wf codes (.reqDispatch dataFrame) = false ∧ Instr.wf codes (.reqDispatch startFrame) = false ∧
    Instr.wf codes (.reqDispatch contFrame) = false := by decide +kernel

theorem test_wf_garbled : Instr.wf codes (.frameGarbled (headerWith 0x25#8)) = false := by decide +kernel

theorem test_wf_parameters : Params.wf { codes with cmdCont := some 0x44#8 } = false ∧ codes.wf = true := by decide

/-! ### Decoding words written out from the spec -/

theorem test_decode_crc32c : decode codes ⟨.op, [0x01#8, 0x18#8, 0xD1#8, 0x23#8, 0x35#8, 0x36#8]⟩
    = .ok (.crc32c 0x18D12335#32 [0x36#8]) := by decide +kernel
theorem test_decode_hex2nibble : decode codes ⟨.op, [0x02#8, 0x47#8]⟩ = .ok (.hex2nibble 0x47#8) := by decide +kernel
theorem test_decode_atohex : decode codes ⟨.op, 0x03#8 :: ascii "deadBEEF"⟩ = .ok (.atohex (ascii "deadBEEF")) := by
  decide +kernel
theorem test_decode_hex2str : decode codes ⟨.op, [0x04#8, 0xDE#8, 0xAD#8, 0xBE#8, 0xEF#8]⟩
    = .ok (.hex2str 0xDEADBEEF#32) := by decide +kernel
theorem test_decode_pairEncode : decode codes ⟨.op, [0x05#8, 0x3E#8]⟩ = .ok (.pairEncode 0x3E#8) := by decide +kernel
theorem test_decode_pairDecode : decode codes ⟨.op, [0x06#8, 0x61#8, 0x42#8]⟩ = .ok (.pairDecode 0x61#8 0x42#8) := by
  decide +kernel
theorem test_decode_frameEncode : decode codes ⟨.op, [0x07#8, 0x56#8, 0x00#8, 0x00#8, 0x00#8, 0x07#8, 0x01#8, 0xAB#8]⟩
    = .ok (.frameEncode 0x56#8 7#32 [0xAB#8] .bin) := by decide +kernel
theorem test_decode_rxByte : decode codes ⟨.op, [0x10#8, 0x3E#8]⟩ = .ok (.rxByte 0x3E#8) := by decide +kernel
theorem test_decode_dispatchResponse : decode codes ⟨.op, [0x11#8, 0x01#8, 0x00#8, 0x00#8, 0x00#8, 0x01#8, 0x75#8]⟩
    = .ok (.dispatchResponse .nack 1#32 [0x75#8]) := by decide +kernel
theorem test_decode_reset : decode codes ⟨.op, [0x12#8]⟩ = .ok .reset := by decide +kernel
theorem test_decode_otpDecode : decode codes ⟨.op, 0x20#8 :: recB1.toList⟩ = .ok (.otpDecode recB1) := by decide +kernel
theorem test_decode_otpGet : decode codes ⟨.op, [0x21#8, 0x00#8, 0x00#8, 0x01#8, 0x02#8, 0x80#8, 0x02#8, 0x10#8]⟩
    = .ok (.otpGet 0x102#32 256 16) := by decide +kernel
theorem test_decode_otpGetValue : decode codes ⟨.op, 0x22#8 :: recA.toList ++ [0x80#8, 0x20#8, 0x00#8, 0x08#8]⟩
    = .ok (.otpGetValue recA 4096 0 8) := by decide +kernel
/-- The frame `>A,12345678,00000002#01ABE5C4C7E5` of L2-5. -/
theorem test_decode_respAck : decode codes ⟨.frameTx, ascii ">A,12345678,00000002#01ABE5C4C7E5"⟩
    = .ok (.respAck 0x12345678#32 [0x01#8, 0xAB#8] .hex) := by decide +kernel
/-- The frame `>N,00000001,00000007%unknown129F25C4` of L2-5. -/
theorem test_decode_respNack : decode codes ⟨.frameTx, ascii ">N,00000001,00000007%unknown129F25C4"⟩
    = .ok (.respNack 1#32 (ascii "unknown") .bin) := by decide +kernel
theorem test_decode_reqData : decode codes
    ⟨.frameRx, ascii ">D,00000000,00000002%" ++ [0x01#8, 0x02#8] ++ ascii "29D736A7"⟩ = .ok (.reqData dataFrame) := by
  decide +kernel
theorem test_decode_reqXferStart : decode codes ⟨.frameRx, ascii ">S,00000000,00000000#6196A982"⟩
    = .ok (.reqXferStart startFrame) := by decide +kernel
theorem test_decode_reqCont : decode codes ⟨.frameRx, ascii ">C,00000000,00000000#1B9D4941"⟩
    = .ok (.reqCont contFrame) := by decide +kernel
theorem test_decode_reqDispatch : decode codes ⟨.frameRx, ascii ">W,00000000,00000001#g16799F251"⟩
    = .ok (.reqDispatch otherFrame) := by decide +kernel
theorem test_decode_frameGarbled : decode codes ⟨.header, ascii "S;00000000,00000000#"⟩
    = .ok (.frameGarbled garbled) := by decide +kernel
theorem test_decode_delimHex : decode codes ⟨.delim, [0x23#8]⟩ = .ok .delimHex := by decide +kernel
theorem test_decode_delimBin : decode codes ⟨.delim, [0x25#8]⟩ = .ok .delimBin := by decide +kernel

/-- A record body of six 0xA5 bytes, tag byte 0x34, cont 1 and low bits 0010. -/
def body : RecordBody := ⟨Vector.replicate 6 0xA5#8, 0x34#8, 1#1, 2#4⟩

/-- Byte 7 is 000/001/.../111 in bits 7..5, then cont 1, then 0010 (R80). -/
theorem test_decode_records :
    decode codes ⟨.record, List.replicate 6 0xA5#8 ++ [0x34#8, 0x12#8]⟩ = .ok (.otpRecInvalidSize0 body) ∧
    decode codes ⟨.record, List.replicate 6 0xA5#8 ++ [0x34#8, 0x32#8]⟩ = .ok (.otpRecSize1 body) ∧
    decode codes ⟨.record, List.replicate 6 0xA5#8 ++ [0x34#8, 0x52#8]⟩ = .ok (.otpRecSize2 body) ∧
    decode codes ⟨.record, List.replicate 6 0xA5#8 ++ [0x34#8, 0x72#8]⟩ = .ok (.otpRecSize3 body) ∧
    decode codes ⟨.record, List.replicate 6 0xA5#8 ++ [0x34#8, 0x92#8]⟩ = .ok (.otpRecSize4 body) ∧
    decode codes ⟨.record, List.replicate 6 0xA5#8 ++ [0x34#8, 0xB2#8]⟩ = .ok (.otpRecSize5 body) ∧
    decode codes ⟨.record, List.replicate 6 0xA5#8 ++ [0x34#8, 0xD2#8]⟩ = .ok (.otpRecSize6 body) ∧
    decode codes ⟨.record, List.replicate 6 0xA5#8 ++ [0x34#8, 0xF2#8]⟩ = .ok (.otpRecInvalidSize7 body) := by
  decide +kernel

/-- Operation codes, operands and frames that are no instruction: the decoder's reason, by name. -/
theorem test_decode_refuses :
    decode codes ⟨.op, [0x08#8]⟩ = .error .unknownOperation ∧ decode codes ⟨.op, []⟩ = .error .unknownOperation ∧
    decode codes ⟨.op, [0x02#8]⟩ = .error .badOperands ∧ decode codes ⟨.op, [0x12#8, 0x00#8]⟩ = .error .trailingBytes ∧
    decode codes ⟨.op, [0x07#8, 0x56#8, 0x00#8, 0x00#8, 0x00#8, 0x00#8, 0x02#8]⟩ = .error .badOperands ∧
    decode codes ⟨.frameRx, ascii "<V,00000000,00000000#8BDA80CB"⟩ = .error .noSof ∧
    decode codes ⟨.frameRx, ascii ">V;00000000,00000000#8BDA80CB"⟩ = .error .garbledHeader ∧
    decode codes ⟨.frameRx, ascii ">V,00000000,00000000#8BDA80C"⟩ = .error .badLength ∧
    decode codes ⟨.frameRx, ascii ">V,00000000,00000000#8BDA80C0"⟩ = .error .crcMismatch ∧
    decode codes ⟨.frameTx, ascii ">V,00000000,00000000#8BDA80CB"⟩ = .error .notAResponse ∧
    decode codes ⟨.header, ascii "V,00000000,00000000#"⟩ = .error .notGarbled ∧
    decode codes ⟨.delim, [0x21#8]⟩ = .error .notADelimiter ∧ decode codes ⟨.record, [0x60#8]⟩ = .error .notARecord := by
  decide +kernel

/-- The host's words: an operation code, both delimiters, a record's byte 7, and the frame rows. -/
theorem test_table_words :
    decodeTableWord 8 0x12 = some .reset ∧ decodeTableWord 8 0x23 = some .delimHex ∧
    decodeTableWord 8 0x25 = some .delimBin ∧
    decodeTableWord 8 0x60 = some (.otpRecSize3 ⟨Vector.replicate 6 0#8, 0#8, 0#1, 0#4⟩) ∧
    decodeTableWord 24 0x3E412C = some (.respAck 0#32 [] .hex) ∧
    decodeTableWord 24 0x3E4E2C = some (.respNack 0#32 [] .hex) := by decide +kernel

/-! ### One step of each instruction -/

/-- L2-1. -/
theorem test_crc32c : after (exec (.crc32c 0#32 (ascii "123456789")) idleState) (·.returns) = some [.u32 0xE3069283#32] ∧
    after (exec (.crc32c 0x18D12335#32 (ascii "6789")) idleState) (·.returns) = some [.u32 0xE3069283#32] := by
  decide +kernel
/-- L2-2. -/
theorem test_hex2nibble : after (exec (.hex2nibble 0x66#8) idleState) (·.returns) = some [.u32 0xF#32] ∧
    after (exec (.hex2nibble 0x47#8) idleState) (·.returns) = some [.u32 0xFFFFFFFF#32] := by decide +kernel
/-- L2-3. -/
theorem test_atohex : after (exec (.atohex (ascii "000000G1")) idleState) (·.returns) = some [.u32 0xFFFFFFF1#32] ∧
    after (exec (.atohex (ascii "123456789")) idleState) (·.returns) = some [.u32 0x23456789#32] := by decide +kernel
/-- L2-4. -/
theorem test_hex2str : after (exec (.hex2str 0xDEADBEEF#32) idleState) (·.returns)
    = some [.bytes (ascii "DEADBEEF")] := by decide +kernel
/-- L2-4. -/
theorem test_pairEncode : after (exec (.pairEncode 0x3E#8) idleState) (·.returns) = some [.bytes (ascii "3E")] := by
  decide +kernel
/-- L2-4. -/
theorem test_pairDecode : after (exec (.pairDecode 0x67#8 0x31#8) idleState) (·.returns) = some [.u8 0xF1#8] ∧
    after (exec (.pairDecode 0x61#8 0x42#8) idleState) (·.returns) = some [.u8 0xAB#8] := by decide +kernel
/-- L2-5. -/
theorem test_frameEncode : after (exec (.frameEncode 0x41#8 0xFFFFFFFF#32 [0x3E#8, 0x00#8] .bin) idleState) (·.returns)
    = some [.bytes (ascii ">A,FFFFFFFF,00000002%>" ++ [0x00#8] ++ ascii "79A7AF3B")] := by decide +kernel
/-- L2-5: the same frames, sent. -/
theorem test_respAck : after (exec (.respAck 0x12345678#32 [0x01#8, 0xAB#8] .hex) idleState) (·.tx)
    = some (events ">A,12345678,00000002#01ABE5C4C7E5") := by decide +kernel
theorem test_respNack : after (exec (.respNack 1#32 (ascii "unknown") .hex) idleState) (·.tx)
    = some (events ">N,00000001,00000007#756E6B6E6F776EA47DF579") := by decide +kernel
/-- R131, R132: SOF inside a header is data. -/
theorem test_rxByte : after (exec (.rxByte 0x3E#8) idleState) (fun s => (s.fsm, s.hidx)) = some (.readHeader, 0) ∧
    after (exec (.rxByte 0x3E#8) { header19 with hidx := 5 }) (fun s => (s.fsm, s.hidx, s.hdr[5]))
      = some (.readHeader, 6, 0x3E#8) := by decide +kernel
/-- DX-3: the response to the continue command, then EXITED. -/
theorem test_dispatchResponse : after (exec (.dispatchResponse .ack 0#32 []) (waiting 0x43#8))
    (fun s => (s.tx, s.fsm, s.pending)) = some (events ">A,00000000,00000000#751AA63B", .exited, none) ∧
    after (exec (.dispatchResponse .ack 0x10002#32 (ascii "v7")) (waiting 0x56#8)) (fun s => (s.tx, s.fsm))
      = some (events ">A,00010002,00000002#7637C253D0BB", .awaitSof) := by decide +kernel
/-- L2-11. -/
theorem test_reset : after (exec .reset { idleState with fsm := .exited, respMode := .bin, dataExpected := 8, dest := [(7, 8#8)] })
    (fun s => (s.fsm, s.respMode, s.dataExpected, s.dest)) = some (.awaitSof, .hex, 0, [(7, 8#8)]) := by decide +kernel
/-- L2-9. -/
theorem test_otpDecode : after (exec (.otpDecode recB1) State.reset) (·.returns)
    = some [.fields ⟨6, true, 0x102#9, true⟩] ∧
    after (exec (.otpDecode #v[0#8, 0#8, 0#8, 0#8, 0#8, 0#8, 0x34#8, 0x62#8])
      { State.reset with params := { Params.default with tagIdB7Bit := 1 } }) (·.returns)
    = some [.fields ⟨3, false, 0x134#9, true⟩] := by decide +kernel
/-- L1-6: get(B). -/
theorem test_otpGet : after (exec (.otpGet 0x102#32 32 16) (otpState []))
    (fun s => (s.returns, Memory.readBytes s.caller 32 16))
    = some ([.status (.count 10)], [0xB1#8, 0xB2#8, 0xB3#8, 0xB4#8, 0xB5#8, 0xB6#8, 0xB7#8, 0xB8#8, 0xB9#8, 0xBA#8,
        0#8, 0#8, 0#8, 0#8, 0#8, 0#8]) := by decide +kernel
/-- OT-8 (the copy, from the head): -EIO with the head's bytes kept; OT-21: -EBADF. -/
theorem test_otpGetValue : after (exec (.otpGetValue recB1 4112 32 16) (otpState [4120]))
    (fun s => (s.returns, Memory.readBytes s.caller 32 8))
    = some ([.status .eio], [0xB1#8, 0xB2#8, 0xB3#8, 0xB4#8, 0xB5#8, 0xB6#8, 0#8, 0#8]) ∧
    after (exec (.otpGetValue recB1 4113 32 8) (otpState [])) (·.returns) = some [.status .ebadf] := by decide +kernel
/-- DS-8: the chunk is stored and answered in its own mode. -/
theorem test_reqData : after (exec (.reqData dataFrame) idleState) (fun s => (s.tx, s.dest, s.dataExpected))
    = some (events ">A,00000000,00000000%53BB41D3", [(0, 1#8), (1, 2#8)], 2) := by decide +kernel
/-- Misordering, as in P1 step 3 (BIN). -/
theorem test_reqData_order : after (exec (.reqData dataFrame) { idleState with dataExpected := 4 })
    (fun s => (s.tx, s.dest, s.dataExpected))
    = some (events ">N,00000000,00000010%data misordering8A203ED8", [], 4) := by decide +kernel
/-- DS-8: `S` restarts the offset and is dispatched. -/
theorem test_reqXferStart : after (exec (.reqXferStart startFrame) { idleState with dataExpected := 2 })
    (fun s => (s.fsm, s.dataExpected, s.pending)) = some (.dispatchWait, 0, some ⟨0x53#8, 0#32, 0#32, [], .hex⟩) := by
  decide +kernel
/-- DX-3: `C` is dispatched. -/
theorem test_reqCont : after (exec (.reqCont contFrame) idleState) (fun s => (s.fsm, s.pending))
    = some (.dispatchWait, some ⟨0x43#8, 0#32, 0#32, [], .hex⟩) := by decide +kernel
/-- RX-10: the pair `g1` is the byte 0xF1. -/
theorem test_reqDispatch : after (exec (.reqDispatch otherFrame) idleState) (fun s => (s.fsm, s.pending))
    = some (.dispatchWait, some ⟨0x57#8, 0#32, 1#32, [0xF1#8], .hex⟩) := by decide +kernel
/-- RX-7's last frame: the NACK uses the mode of the last accepted frame. -/
theorem test_frameGarbled : after (exec (.frameGarbled garbled) { idleState with respMode := .bin })
    (fun s => (s.tx, s.fsm)) = some (events ">N,00000000,0000000F%garbled command3D962560", .awaitSof) := by decide +kernel
/-- R135: the 20th byte selects the mode. -/
theorem test_delimHex : after (exec .delimHex { header19 with respMode := .bin }) (fun s => (s.reqMode, s.respMode, s.fsm))
    = some (.hex, .hex, .readCrc) := by decide +kernel
theorem test_delimBin : after (exec .delimBin header19) (fun s => (s.reqMode, s.respMode, s.fsm))
    = some (.bin, .bin, .readCrc) := by decide +kernel
/-- R80, R81, R220, on `body`: the value bytes of each size. -/
theorem test_records :
    after (exec (.otpRecInvalidSize0 body) State.reset) (·.returns) = some [.record ⟨0, true, 0x34#9, false⟩ []] ∧
    after (exec (.otpRecSize1 body) State.reset) (·.returns) = some [.record ⟨1, true, 0x34#9, true⟩ [0xA5#8]] ∧
    after (exec (.otpRecSize2 body) State.reset) (·.returns)
      = some [.record ⟨2, true, 0x34#9, true⟩ (List.replicate 2 0xA5#8)] ∧
    after (exec (.otpRecSize3 body) State.reset) (·.returns)
      = some [.record ⟨3, true, 0x34#9, true⟩ (List.replicate 3 0xA5#8)] ∧
    after (exec (.otpRecSize4 body) State.reset) (·.returns)
      = some [.record ⟨4, true, 0x34#9, true⟩ (List.replicate 4 0xA5#8)] ∧
    after (exec (.otpRecSize5 body) State.reset) (·.returns)
      = some [.record ⟨5, true, 0x34#9, true⟩ (List.replicate 5 0xA5#8)] ∧
    after (exec (.otpRecSize6 body) State.reset) (·.returns)
      = some [.record ⟨6, true, 0x34#9, true⟩ (List.replicate 6 0xA5#8)] ∧
    after (exec (.otpRecInvalidSize7 body) State.reset) (·.returns) = some [.record ⟨7, true, 0x34#9, false⟩ []] := by
  decide +kernel
/-- The host's word is the next step's instruction. -/
theorem test_step_runs_word : after (step (State.reset.withFetchWord 8 0x10)) (fun s => (s.fsm, s.inbox))
    = some (.awaitSof, []) := by decide +kernel
/-- R267: with nothing placed, the machine at reset waits for a byte for ever. -/
theorem test_step_hangs_at_reset : step State.reset = .fault .hangRx := rfl

/-! ### Witnesses: the hypotheses of the obligations can be met

The obligations not named here have no hypothesis, or only a universally quantified state. -/

/-- AtohexShiftsAndOrs: an invalid character first and last in an 8-character field. -/
theorem witness_AtohexShiftsAndOrs :
    hex2nibble 0x47#8 = 0xFFFFFFFF#32 ∧ ([] : List Byte).length + 1 + (ascii "0000000").length = 8 ∧
    (ascii "0000000").length + 1 + ([] : List Byte).length = 8 := by decide +kernel

/-- HexRoundTrips: an uppercase field comes back as it was; a field of hex digits of both cases. -/
theorem witness_HexRoundTrips : hex2str (atohex (ascii "DEADBEEF")) = ascii "DEADBEEF" ∧
    (ascii "deadBEEF").length = 8 ∧ (∀ c ∈ ascii "deadBEEF", hex2nibble c ≠ 0xFFFFFFFF#32) := by decide +kernel

/-- FrameEncodeLayout, and every other statement with a payload below 2^32 bytes. -/
theorem witness_FrameEncodeLayout : ([] : List Byte).length < 2 ^ 32 ∧ (ascii "v7").length < 2 ^ 32 := by decide

theorem payload_of_length (n : Nat) : ∃ p : List Byte, p.length = n := ⟨List.replicate n 0#8, by simp⟩

/-- PayloadBeyondLengthFieldIsRefused: a payload of any length there is, 2^32 bytes among them. -/
theorem witness_PayloadBeyondLengthFieldIsRefused : ∃ p : List Byte, 2 ^ 32 ≤ p.length := by
  obtain ⟨p, hp⟩ := payload_of_length (2 ^ 32)
  exact ⟨p, by omega⟩

theorem witness_ResponseFrameIsSentWithOneFlush : (ascii "v7").length < 2 ^ 32 ∧ State.reset.fsm ≠ .exited := by
  decide +kernel

/-- EXITED, and the other mode. -/
theorem witness_ResponseRowStopsWhereNoneIsSent :
    ({ idleState with fsm := .exited } : State).fsm = .exited ∧ idleState.fsm ≠ .exited ∧ Mode.bin ≠ idleState.respMode := by
  decide

theorem witness_SofStartsAHeader : idleState.fsm = .awaitSof ∧ idleState.rx = [] := by decide

/-- The first and the last byte that is only stored. -/
theorem witness_HeaderByteIsStored :
    ({ header19 with hidx := 0 } : State).fsm = .readHeader ∧ ({ header19 with hidx := 0 } : State).rx = [] ∧
    ({ header19 with hidx := 0 } : State).hidx < 19 ∧ ({ header19 with hidx := 18 } : State).hidx < 19 := by decide

/-- With both delimiters. -/
theorem witness_TwentiethByteAcceptsHeader :
    header19.fsm = .readHeader ∧ header19.rx = [] ∧ header19.hidx = 19 ∧ header19.hdr[1] = 0x2C#8 ∧
    header19.hdr[10] = 0x2C#8 ∧ (0x23#8 = (0x23#8 : Byte) ∨ 0x23#8 = (0x25#8 : Byte)) ∧
    (0x25#8 = (0x23#8 : Byte) ∨ 0x25#8 = (0x25#8 : Byte)) := by decide +kernel

/-- Each of the three ways to fail alone. -/
theorem witness_TwentiethByteOfGarbledHeader :
    let first : State := { header19 with hdr := header19.hdr.setIfInBounds 1 0x3B#8 }
    let second : State := { header19 with hdr := header19.hdr.setIfInBounds 10 0x3B#8 }
    (first.fsm = .readHeader ∧ first.rx = [] ∧ first.hidx = 19 ∧ first.hdr[1] ≠ 0x2C#8) ∧
    (second.fsm = .readHeader ∧ second.rx = [] ∧ second.hidx = 19 ∧ second.hdr[10] ≠ 0x2C#8) ∧
    (header19.fsm = .readHeader ∧ header19.rx = [] ∧ header19.hidx = 19 ∧
      (0x24#8 ≠ (0x23#8 : Byte) ∧ 0x24#8 ≠ (0x25#8 : Byte))) := by decide +kernel

theorem witness_DelimiterSelectsTheMode :
    header19.fsm = .readHeader ∧ header19.rx = [] ∧ header19.hidx = 19 ∧ header19.hdr[1] = 0x2C#8 ∧
    header19.hdr[10] = 0x2C#8 := by decide +kernel

/-- READ_PAYLOAD in a mode, with one of two payload bytes counted. -/
def payloadState (m : Mode) (phase : Fin 2) : State :=
  { idleState with fsm := .readPayload, reqMode := m, respMode := m, reqLen := 2#32, pcnt := 1, phase := phase }

/-- Before the last byte, on it, and past the buffer's end. -/
theorem witness_BinaryPayloadByte :
    (payloadState .bin 0).fsm = .readPayload ∧ (payloadState .bin 0).reqMode = .bin ∧ (payloadState .bin 0).rx = [] := by
  decide

theorem witness_HexPayloadCharacter :
    ((payloadState .hex 0).fsm = .readPayload ∧ (payloadState .hex 0).reqMode = .hex ∧ (payloadState .hex 0).rx = [] ∧
      (payloadState .hex 0).phase = 0) ∧
    ((payloadState .hex 1).fsm = .readPayload ∧ (payloadState .hex 1).reqMode = .hex ∧ (payloadState .hex 1).rx = [] ∧
      (payloadState .hex 1).phase = 1) := by decide

theorem witness_TrailerCharacterIsStored :
    (trailer7 0x56#8).fsm = .readCrc ∧ (trailer7 0x56#8).rx = [] ∧ ({ trailer7 0x56#8 with tidx := 6 } : State).tidx < 7 ∧
    ({ trailer7 0x56#8 with tidx := 0 } : State).tidx < 7 := by decide

/-- The hypotheses, and a character under which each branch of the decision is taken. -/
theorem witness_EighthTrailerCharacterDecides :
    (trailer7 0x44#8).fsm = .readCrc ∧ (trailer7 0x44#8).rx = [] ∧ (trailer7 0x44#8).tidx = 7 ∧
    atohex ((trailer7 0x44#8).trl.setIfInBounds 7 0x31#8).toList ≠ (trailer7 0x44#8).crcAcc ∧
    atohex ((trailer7 0x44#8).trl.setIfInBounds 7 0x30#8).toList = (trailer7 0x44#8).crcAcc ∧
    codes.cmdData = some (trailer7 0x44#8).reqCmd ∧ codes.cmdXferStart = some (trailer7 0x53#8).reqCmd ∧
    codes.cmdData ≠ some (trailer7 0x56#8).reqCmd := by decide +kernel

theorem witness_WaitingEngineTakesNoByte :
    (waiting 0x56#8).fsm = .dispatchWait ∧ ({ idleState with fsm := .exited } : State).fsm = .exited := by decide

theorem witness_QueuedBytesAreTakenFirst :
    idleState.fsm ≠ .dispatchWait ∧ idleState.fsm ≠ .exited ∧
    ({ idleState with rx := [0x3E#8, 0x56#8] } : State).rx = 0x3E#8 :: [0x56#8] := by decide

theorem idle_idleState : idle idleState := ⟨rfl, rfl⟩

/-- A payload that just fits PBUF, and a command code that is none of the three. -/
theorem witness_EncodedRequestIsDispatchedWithItsFields :
    idle idleState ∧ Memory.wf idleState.pbuf = true ∧ (List.replicate 256 (0x3E#8 : Byte)).length < 2 ^ 32 ∧
    (List.replicate 256 (0x3E#8 : Byte)).length ≤ idleState.params.payloadMax ∧ idleState.params.cmdData ≠ some 0x56#8 ∧
    idleState.params.cmdXferStart ≠ some 0x56#8 ∧ idleState.params.cmdCont ≠ some 0x56#8 :=
  ⟨idle_idleState, by decide +kernel⟩

/-- A chunk that just fits DEST and PBUF, at the expected offset. -/
theorem witness_DataFrameInOrderIsStored :
    let s : State := { idleState with params := { codes with payloadMax := 2, destSize := 2 } }
    idle s ∧ dataFrame.wf = true ∧ s.params.cmdData = some dataFrame.cmd ∧ Memory.wf s.pbuf = true ∧
    Memory.wf s.dest = true ∧ frameLen dataFrame ≤ s.params.payloadMax ∧
    (atohex dataFrame.arg0.toList).toNat = s.dataExpected ∧ s.dataExpected + frameLen dataFrame ≤ s.params.destSize :=
  ⟨⟨rfl, rfl⟩, by decide +kernel⟩

/-- One byte too long for PBUF, one byte off in order, and one byte too long for DEST. -/
theorem witness_RefusedDataFrameChangesNoData :
    idle idleState ∧ dataFrame.wf = true ∧ codes.cmdData = some dataFrame.cmd ∧ Memory.wf idleState.pbuf = true ∧
    ({ codes with payloadMax := 1 } : Params).payloadMax < frameLen dataFrame ∧
    (atohex dataFrame.arg0.toList).toNat ≠ ({ idleState with dataExpected := 1 } : State).dataExpected ∧
    ({ codes with destSize := 1 } : Params).destSize < idleState.dataExpected + frameLen dataFrame :=
  ⟨idle_idleState, by decide +kernel⟩

theorem witness_TransferStartRestartsTheOffset :
    idle idleState ∧ startFrame.wf = true ∧ Memory.wf idleState.pbuf = true ∧
    idleState.params.cmdData ≠ some startFrame.cmd ∧ idleState.params.cmdXferStart = some startFrame.cmd ∧
    frameLen startFrame ≤ idleState.params.payloadMax := ⟨idle_idleState, by decide +kernel⟩

theorem witness_OtherFrameIsDispatched :
    idle idleState ∧ otherFrame.wf = true ∧ Memory.wf idleState.pbuf = true ∧
    idleState.params.cmdData ≠ some otherFrame.cmd ∧ idleState.params.cmdXferStart ≠ some otherFrame.cmd ∧
    frameLen otherFrame ≤ idleState.params.payloadMax := ⟨idle_idleState, by decide +kernel⟩

theorem witness_ContinueExitsAfterItsResponse :
    idle idleState ∧ contFrame.wf = true ∧ Memory.wf idleState.pbuf = true ∧
    idleState.params.cmdData ≠ some contFrame.cmd ∧ idleState.params.cmdXferStart ≠ some contFrame.cmd ∧
    idleState.params.cmdCont = some contFrame.cmd ∧ frameLen contFrame ≤ idleState.params.payloadMax ∧
    (ascii "v7").length < 2 ^ 32 := ⟨idle_idleState, by decide +kernel⟩

/-- Each of the three ways to fail alone. -/
theorem witness_GarbledHeaderIsDiscarded :
    idle idleState ∧ garbled[1] ≠ 0x2C#8 ∧ ((headerWith 0x23#8).setIfInBounds 10 0x20#8)[10] ≠ 0x2C#8 ∧
    ((headerWith 0x24#8)[19] ≠ 0x23#8 ∧ (headerWith 0x24#8)[19] ≠ 0x25#8) := ⟨idle_idleState, by decide +kernel⟩

/-- A chunk of 64 bytes at an offset. -/
def chunk (offset : U32) : Frame := encodedFrame 0x44#8 offset (List.replicate 64 0x5A#8) .hex

theorem chunk_facts (offset : U32) : (chunk offset).wf = true ∧ codes.cmdData = some (chunk offset).cmd ∧
    frameLen (chunk offset) = 64 ∧ atohex (chunk offset).arg0.toList = offset :=
  ⟨encodedFrame_wf _ _ _ _ (by decide), rfl, frameLen_encodedFrame _ _ _ _ (by decide), atohex_hex2str offset⟩

theorem witness_ChunkOffsetsMustMatchExactly :
    idle idleState ∧ Memory.wf idleState.pbuf = true ∧ Memory.wf idleState.dest = true ∧ idleState.dataExpected = 0 ∧
    64 ≤ idleState.params.payloadMax ∧ 128 ≤ idleState.params.destSize ∧
    (∀ x ∈ [chunk 0#32, chunk 64#32, chunk 64#32, chunk 128#32],
      x.wf = true ∧ idleState.params.cmdData = some x.cmd ∧ frameLen x = 64) ∧
    atohex (chunk 0#32).arg0.toList = 0#32 ∧ atohex (chunk 64#32).arg0.toList = 64#32 ∧
    atohex (chunk 128#32).arg0.toList = 128#32 := by
  refine ⟨idle_idleState, rfl, rfl, rfl, by decide, by decide, ?_, atohex_hex2str _, atohex_hex2str _, atohex_hex2str _⟩
  intro x hx
  simp only [List.mem_cons, List.not_mem_nil, or_false] at hx
  rcases hx with rfl | rfl | rfl | rfl <;> exact ⟨(chunk_facts _).1, (chunk_facts _).2.1, (chunk_facts _).2.2.1⟩

/-- For the continue command and for another. -/
theorem witness_DispatchResponseIsSent :
    ((waiting 0x43#8).fsm = .dispatchWait ∧ (waiting 0x43#8).pending = some ⟨0x43#8, 0#32, 0#32, [], .hex⟩ ∧
      codes.cmdCont = some 0x43#8) ∧
    ((waiting 0x56#8).fsm = .dispatchWait ∧ (waiting 0x56#8).pending = some ⟨0x56#8, 0#32, 0#32, [], .hex⟩ ∧
      codes.cmdCont ≠ some 0x56#8) := by decide

/-- DispatchResponseIsSent in another state. -/
theorem witness_DispatchResponseIsSent_elsewhere :
    (ascii "unknown").length < 2 ^ 32 ∧ idleState.fsm ≠ .dispatchWait := by decide +kernel

/-- Two records that differ in a value byte and in a bit of byte 7 that does not matter. -/
theorem witness_OtpDecodeFieldsByArithmetic :
    let x : Vector Byte 8 := recB1
    let y : Vector Byte 8 := (recB1.setIfInBounds 0 0x00#8).setIfInBounds 7 0xD5#8
    x[6] = y[6] ∧ (∀ i, i < 8 → 4 ≤ i ∨ i = (0 : Fin 4).val → x[7].getLsbD i = y[7].getLsbD i) ∧ x ≠ y := by
  decide +kernel

/-- The scan of OTP-L1 for tag 0x102: past record A of another tag, past the invalid record, to the head at 4112. -/
theorem witness_OtpGetFollowsTheScanRules_found :
    ScanReaches (otpState []) 0x102#32 4112 false ∧ 4112 < 8192 ∧ otpRead (otpState []) 4112 = some recB1 ∧
    recordValid recB1 = true ∧ (recordTag (otpState []).params.tagIdB7Bit recB1).setWidth 32 = 0x102#32 :=
  ⟨.invalid (.other (raw := recA) .start (by decide) (by decide +kernel) (by decide +kernel) (by decide +kernel))
    (raw := recI) (by decide) (by decide +kernel) (by decide +kernel), by decide +kernel⟩

/-- The same scan, with the record at 4104 failing. -/
theorem witness_OtpGetFollowsTheScanRules_failed :
    ScanReaches (otpState [4104]) 0x102#32 4104 false ∧ 4104 < 8192 ∧ otpRead (otpState [4104]) 4104 = none :=
  ⟨.other (raw := recA) .start (by decide) (by decide +kernel) (by decide +kernel) (by decide +kernel), by decide +kernel⟩

/-- In an erased region the scan for any tag comes to every record. -/
theorem scan_erased (tag : U32) (k : Nat) (h : k ≤ 512) : ScanReaches State.reset tag (4096 + 8 * k) false := by
  induction k with
  | zero => exact .start
  | succ k ih =>
    have hoff : 4096 + 8 * k < Config.tagEnd := by simp only [Config.tagEnd]; omega
    exact .invalid (ih (by omega)) (raw := Vector.replicate 8 0#8) hoff rfl (by decide)

/-- An erased region scanned to its end. -/
theorem witness_OtpGetFollowsTheScanRules_end : ScanReaches State.reset 0x102#32 8192 false ∧ 8192 ≤ 8192 :=
  ⟨scan_erased 0x102#32 512 (by decide), by decide⟩

theorem witness_OtpOperationsStayInTheBuffer : Memory.wf (otpState []).caller = true := by decide

/-- Misaligned; just below and just past the region; and the two invalid sizes at a good offset. -/
theorem witness_OtpGetValueChecksItsArguments :
    4113 % 8 ≠ 0 ∧ 4088 < 4096 ∧ 8192 ≤ 8192 ∧
    (4096 % 8 = 0 ∧ 4096 ≤ 4096 ∧ 4096 < 8192 ∧ (Vector.replicate 8 (0#8 : Byte))[7].toNat / 32 = 0) ∧
    (8184 % 8 = 0 ∧ 4096 ≤ 8184 ∧ 8184 < 8192 ∧ recI[7].toNat / 32 = 7) := by decide +kernel

/-- A chain of one record; tag B's chain of two; and its head alone into a buffer of 6 bytes, the continuation record
unreadable (vector OT-9). -/
theorem witness_OtpGetValueReturnsTheChain :
    (Memory.wf (otpState []).caller = true ∧ 4096 % 8 = 0 ∧ recordValid recA = true ∧
      followsInChain (otpState []) 4096 recA [] ∧ recordCont (([] : List (Vector Byte 8)).getLastD recA) = false) ∧
    (4112 % 8 = 0 ∧ 4096 ≤ 4112 ∧ 4112 < 8192 ∧ recordValid recB1 = true ∧
      followsInChain (otpState []) 4112 recB1 [recB2] ∧ recordCont ([recB2].getLastD recB1) = false) ∧
    (otpRead (otpState [4120]) (4112 + 8) = none ∧ followsInChain (otpState [4120]) 4112 recB1 [] ∧
      6 ≤ (chainValue [recB1]).length) := by
  unfold followsInChain
  exact ⟨⟨by decide +kernel, by decide, by decide +kernel, trivial, by decide +kernel⟩,
    ⟨by decide, by decide, by decide, by decide +kernel,
      ⟨by decide +kernel, by decide, by decide +kernel, by decide +kernel, trivial⟩, by decide +kernel⟩,
    by decide +kernel, trivial, by decide +kernel⟩

/-- Vector OT-11's image: two records with cont set at the end of the region. -/
def recE1 : Vector Byte 8 := #v[0x01#8, 0x02#8, 0x00#8, 0x00#8, 0x00#8, 0x00#8, 0x10#8, 0x50#8]
/-- Its last record. -/
def recE2 : Vector Byte 8 := #v[0x03#8, 0x00#8, 0x00#8, 0x00#8, 0x00#8, 0x00#8, 0x10#8, 0x30#8]
/-- Reset with that image. -/
def endState : State :=
  { State.reset with otpImage := Memory.writeBytes [] 8176 (recE1.toList ++ recE2.toList) }

/-- The three ways to break off: past the region after two records (OT-11), unreadable (OT-8), and invalid. -/
theorem witness_BrokenChainKeepsTheBytesCopied :
    (Memory.wf endState.caller = true ∧ 8176 % 8 = 0 ∧ 4096 ≤ 8176 ∧ 8176 < 8192 ∧ recordValid recE1 = true ∧
      followsInChain endState 8176 recE1 [recE2] ∧ recordCont ([recE2].getLastD recE1) = true ∧
      (chainValue [recE1, recE2]).length < 4 ∧ 8176 + 8 * ([recE2].length + 1) = 8192) ∧
    (recordValid recB1 = true ∧ followsInChain (otpState [4120]) 4112 recB1 [] ∧ recordCont recB1 = true ∧
      (chainValue [recB1]).length < 16 ∧ otpRead (otpState [4120]) (4112 + 8 * (0 + 1)) = none) ∧
    (otpRead (otpState []) (4096 + 8 * (0 + 1)) = some recI ∧ recordValid recI = false) := by
  unfold followsInChain
  exact ⟨⟨by decide +kernel, by decide, by decide, by decide, by decide +kernel,
      ⟨by decide +kernel, by decide, by decide +kernel, by decide +kernel, trivial⟩, by decide +kernel,
      by decide +kernel, by decide⟩,
    ⟨by decide +kernel, trivial, by decide +kernel, by decide +kernel, by decide +kernel⟩, by decide +kernel⟩

/-- Two records with cont set, then the end of the region (OT-11); a full buffer before an unreadable record (OT-9). -/
theorem test_otpGet_chain_ends :
    after (exec (.otpGet 0x010#32 32 4) endState) (fun s => (s.returns, Memory.readBytes s.caller 32 4))
      = some ([.status .ebadf], [0x01#8, 0x02#8, 0x03#8, 0x00#8]) ∧
    after (exec (.otpGet 0x102#32 32 6) (otpState [4120])) (·.returns) = some [.status (.count 6)] := by decide +kernel

/-- The lowest tag above the range, and the highest. -/
theorem witness_WideTagNeverMatches : 0x1FF < (0x200#32).toNat ∧ 0x1FF < (0xFFFFFFFF#32).toNat := by decide

theorem witness_StatusNumbersAreTheSpecs : 0 < 2 ^ 31 ∧ 2 ^ 31 - 1 < 2 ^ 31 := by decide

/-- A caller's operation and an engine's, in both orders; and a step. -/
theorem witness_UnitsCommute :
    isCallerOp (.hex2nibble 0x41#8) = true ∧ isCallerOp (.rxByte 0x3E#8) = false ∧
    (∃ t u : State, exec (.hex2nibble 0x41#8) idleState = .next t ∧ exec (.rxByte 0x3E#8) t = .next u) ∧
    (∃ v u : State, exec (.rxByte 0x3E#8) idleState = .next v ∧ exec (.hex2nibble 0x41#8) v = .next u) ∧
    (∃ t : State, step (idleState.withFetchWord 8 0x12) = .next t) :=
  ⟨rfl, rfl, ⟨_, _, rfl, rfl⟩, ⟨_, _, rfl, rfl⟩, ⟨_, rfl⟩⟩

/-- The last character of an accepted data chunk and of a transfer start moves the offset. -/
theorem witness_OnlyDataTransferMovesTheOffset :
    (∃ t : State, exec (.rxByte 0x30#8) (trailer7 0x44#8) = .next t ∧ t.dataExpected = 9) ∧
    (∃ t : State, exec (.rxByte 0x30#8) (trailer7 0x53#8) = .next t ∧ t.dataExpected = 0) ∧
    (trailer7 0x44#8).dataExpected = 7 ∧ (trailer7 0x53#8).dataExpected = 7 :=
  ⟨⟨_, rfl, by decide +kernel⟩, ⟨_, rfl, by decide +kernel⟩, rfl, rfl⟩

/-- The delimiter of an accepted header changes the response mode. -/
theorem witness_OnlyAcceptedHeadersSetResponseMode :
    ∃ t : State, exec (.rxByte 0x25#8) header19 = .next t ∧ t.respMode ≠ header19.respMode :=
  ⟨_, rfl, by decide +kernel⟩

/-- The engine in the middle of the payload of `>W,00000007,00000003%>>...` (RX-9), one byte received, one arriving. -/
def midPayload : State :=
  { idleState with
    fsm := .readPayload, hdr := ⟨(ascii "W,00000007,00000003%").toArray, by decide +kernel⟩, hidx := 20, reqCmd := 0x57#8
    reqArg0 := 7#32, reqLen := 3#32, reqMode := .bin, respMode := .bin
    crcAcc := crc32c 0#32 (ascii "W,00000007,00000003%>"), pcnt := 1, pbuf := [(0, 0x3E#8)]
    inbox := [⟨.op, [0x10#8, 0x3E#8]⟩] }

theorem midPayload_inv : midPayload.Inv where
  memories := ⟨by decide, by decide, by decide, by decide⟩
  hidx_le := by decide
  hidx_lt := fun h => by cases h
  tidx_le := by decide
  tidx_lt := fun _ => by decide
  pcnt_lt := fun _ => by decide
  pcnt_eq := fun h => by cases h
  phase_zero := fun _ => rfl
  respMode_eq := fun _ => rfl
  pending_iff := by decide
  pending_payload := fun _ h => by cases h
  dataExpected_le := by decide

theorem midPayload_buffer (i : Nat) (hi : i < midPayload.pcnt) (_ : i < midPayload.params.payloadMax) :
    Memory.read midPayload.pbuf i
      = (decodePayload ([0x3E#8].take (wireLen midPayload.pcnt midPayload.reqMode)) midPayload.reqMode).getD i 0#8 := by
  have hi' : i < 1 := hi
  obtain rfl : i = 0 := by omega
  rfl

theorem midPayload_frameInv : midPayload.FrameInv where
  reading := fun _ => ⟨⟨by decide +kernel, by decide +kernel, by decide +kernel, by decide +kernel, by decide +kernel⟩,
    [0x3E#8], ⟨by decide, by decide +kernel, (fun h => by cases h), midPayload_buffer⟩⟩
  waiting := fun h => by cases h

theorem witness_StepKeepsTheRegisterInvariant : midPayload.Inv ∧ ∃ t : State, step midPayload = .next t :=
  ⟨midPayload_inv, _, rfl⟩

theorem witness_StepKeepsTheFrameInvariant :
    midPayload.Inv ∧ midPayload.FrameInv ∧ ∃ t : State, step midPayload = .next t :=
  ⟨midPayload_inv, midPayload_frameInv, _, rfl⟩

/-- Well-formed instructions of every format. -/
theorem witness_DecodeOfEncodeIsTheInstruction :
    Instr.wf codes (.frameEncode 0x41#8 0#32 (ascii "v7") .bin) = true ∧ Instr.wf codes (.respNack 1#32 [] .hex) = true ∧
    Instr.wf codes (.reqData dataFrame) = true ∧ Instr.wf codes (.reqXferStart startFrame) = true ∧
    Instr.wf codes (.reqCont contFrame) = true ∧ Instr.wf codes (.reqDispatch otherFrame) = true ∧
    Instr.wf codes (.frameGarbled garbled) = true ∧ Instr.wf codes .delimBin = true ∧
    Instr.wf codes (.otpRecSize3 body) = true := by decide +kernel

/-- DecodedInstructionIsWellFormed and WireBytesAreNotDropped: a frame, a header, a delimiter, a record. -/
theorem witness_WireBytesAreNotDropped :
    Format.frameRx ≠ .op ∧ Format.header ≠ .op ∧ Format.delim ≠ .op ∧ Format.record ≠ .op ∧ Format.frameTx ≠ .op ∧
    decode codes ⟨.frameRx, ascii ">S,00000000,00000000#6196A982"⟩ = .ok (.reqXferStart startFrame) ∧
    decode codes ⟨.header, ascii "S;00000000,00000000#"⟩ = .ok (.frameGarbled garbled) ∧
    decode codes ⟨.delim, [0x25#8]⟩ = .ok .delimBin := by decide +kernel

/-- Vectors RX-1, RX-5 and RX-17: noise ahead of a frame is dropped, a frame with a wrong trailer is answered with the CRC
NACK, and a frame without its trailer waits for it. None is a row's word, and a step takes each. -/
theorem test_step_any_received_bytes :
    after (step { State.reset with inbox := [⟨.frameRx, ascii "xy>V,00000000,00000000#8BDA80CB"⟩] })
      (fun s => (s.fsm, s.pending, s.tx)) = some (.dispatchWait, some ⟨0x56#8, 0#32, 0#32, [], .hex⟩, []) ∧
    after (step { State.reset with inbox := [⟨.frameRx, ascii ">V,00000000,00000000#8BDA80C0"⟩] })
      (fun s => (s.fsm, s.pending, s.tx))
      = some (.awaitSof, none, events ">N,00000000,0000000B#435243206661696C7572652166318F") ∧
    after (step { State.reset with inbox := [⟨.header, ascii "V,00000000,00000000#"⟩] })
      (fun s => (s.fsm, s.reqCmd, s.tidx, s.tx)) = some (.readCrc, 0x56#8, 0, []) := by decide +kernel

/-- Vector RX-4: `!` as the payload delimiter is the framing error. A transaction that is no operation is refused. -/
theorem test_step_any_delimiter :
    after (step { header19 with inbox := [⟨.delim, [0x21#8]⟩] }) (fun s => (s.fsm, s.tx))
      = some (.awaitSof, events ">N,00000000,0000000F#676172626C656420636F6D6D616E643CCD7DD6") ∧
    fetch { State.reset with inbox := [⟨.op, [0x08#8]⟩] } = .refused (.undecodable .unknownOperation) := by decide +kernel

/-- EveryByteSequenceIsTaken: a transaction of each format of the receive direction whose bytes are no row's word. -/
theorem witness_EveryByteSequenceIsTaken :
    codes.wf = true ∧
    pick .awaitSof [⟨.frameRx, ascii "xy"⟩] = some (⟨.frameRx, ascii "xy"⟩, []) ∧
    pick .awaitSof [⟨.delim, [0x21#8]⟩] = some (⟨.delim, [0x21#8]⟩, []) ∧
    pick .exited [⟨.header, []⟩] = some (⟨.header, []⟩, []) ∧
    decode codes ⟨.frameRx, ascii "xy"⟩ = .error .badLength ∧ decode codes ⟨.header, []⟩ = .error .notGarbled := by
  decide +kernel

/-- A byte behind a response without a step; a placed word; a transaction that is no operation, for each format that brings
no received bytes; command codes that are not distinct. -/
theorem witness_StepRunsTheDecodedInstruction :
    (midPayload.params.wf = true ∧ hasNoStep midPayload.fsm (encode (.dispatchResponse .ack 0#32 [])) = true ∧
      hasNoStep midPayload.fsm ⟨.op, [0x10#8, 0x3E#8]⟩ = false ∧
      decode midPayload.params ⟨.op, [0x10#8, 0x3E#8]⟩ = .ok (.rxByte 0x3E#8) ∧
      pick midPayload.fsm [encode (.dispatchResponse .ack 0#32 []), ⟨.op, [0x10#8, 0x3E#8]⟩, ⟨.op, [0x10#8, 0x56#8]⟩]
        = some (⟨.op, [0x10#8, 0x3E#8]⟩, [⟨.op, [0x10#8, 0x56#8]⟩])) ∧
    (hasNoStep State.reset.fsm (tableTransaction 24 0x3E412C) = false ∧
      decode State.reset.params (tableTransaction 24 0x3E412C) = .ok (.respAck 0#32 [] .hex)) ∧
    (pick .awaitSof [⟨.op, [0x08#8]⟩] = some (⟨.op, [0x08#8]⟩, []) ∧
      decode codes ⟨.op, [0x08#8]⟩ = .error .unknownOperation ∧
      decode codes ⟨.frameTx, ascii ">V,00000000,00000000#8BDA80CB"⟩ = .error .notAResponse ∧
      decode codes ⟨.record, [0x60#8]⟩ = .error .notARecord) ∧
    ({ codes with cmdCont := some 0x44#8 } : Params).wf = false := by decide +kernel

/-- A state for each clause, with nothing in the inbox and with a response without a step. -/
theorem witness_EngineGoesOnAlone :
    idleState.params.wf = true ∧ idleState.inbox = [] ∧ idleState.fsm ≠ .dispatchWait ∧ idleState.fsm ≠ .exited ∧
    hasNoStep idleState.fsm (encode (.dispatchResponse .ack 0#32 [])) = true ∧
    ({ idleState with rx := [0x3E#8, 0x56#8] } : State).rx = 0x3E#8 :: [0x56#8] ∧ idleState.rx = [] ∧
    (waiting 0x56#8).inbox = [] ∧ (waiting 0x56#8).fsm = .dispatchWait ∧
    ({ idleState with fsm := .exited } : State).fsm = .exited ∧
    hasNoStep .exited (encode (.dispatchResponse .ack 0#32 [])) = true := by decide +kernel

/-- In DISPATCH_WAIT, with a response and a byte handed in before the RESET and a byte after it; and a response whose turn
comes in AWAIT_SOF. -/
theorem witness_ResetTakesPriorityOverEverything :
    ((waiting 0x51#8).params.wf = true ∧
      encode .reset ∉ [encode (.dispatchResponse .ack 0#32 []), ⟨.op, [0x10#8, 0x3E#8]⟩]) ∧
    idleState.fsm ≠ .dispatchWait := by decide +kernel

/-- Vector group L2-11: after the RESET the response for `Q` has no step, although a request follows. -/
theorem test_reset_first :
    after (step { waiting 0x51#8 with inbox := [encode (.dispatchResponse .ack 0#32 []), ⟨.op, [0x10#8, 0x3E#8]⟩,
        encode .reset] }) (fun s => (s.fsm, s.pending, s.tx, s.inbox))
      = some (.awaitSof, none, [], [⟨.op, [0x10#8, 0x3E#8]⟩]) := by decide +kernel

end Sys2Proof.Tests
end

/-! The statements of the machine's scope (spec/00_scope.md): the receive side takes every byte sequence (R14), the
caller's operations and the engine's are independent (R5, R62), the decoder is sound, and a step runs what it decodes. -/

namespace Sys2Proof

open Machine

/-! ### Soundness of the decoder -/

theorem decodeFrameEncode_wf (P : Params) {cmd : Byte} {bs : List Byte} {i : Instr}
    (h : decodeFrameEncode cmd bs = .ok i) : i.wf P = true := by
  unfold decodeFrameEncode at h
  split at h
  · split at h
    · cases h
    · split at h
      · next hp => cases h; exact hp
      · cases h
  · cases h

theorem decodeResponse_wf (P : Params) {k : Byte} {bs : List Byte} {i : Instr}
    (h : decodeResponse k bs = .ok i) : i.wf P = true := by
  unfold decodeResponse at h
  split at h
  · split at h
    · next hp => cases h; exact hp
    · cases h
  · cases h

theorem decodeGet_wf (P : Params) {tag : U32} {bs : List Byte} {i : Instr} (h : decodeGet tag bs = .ok i) :
    i.wf P = true := by
  unfold decodeGet at h
  split at h
  · cases h
  · split at h <;> cases h
    rfl

theorem decodeGetValue_wf (P : Params) {raw : Vector Byte 8} {bs : List Byte} {i : Instr}
    (h : decodeGetValue raw bs = .ok i) : i.wf P = true := by
  unfold decodeGetValue at h
  split at h
  · cases h
  · split at h
    · cases h
    · split at h <;> cases h
      rfl

/-- Only FRAME_ENCODE and DISPATCH_RESPONSE have a domain narrower than their operands' types (R173, R193). -/
theorem decodeOperands_wf (P : Params) {code : Nat} {bs : List Byte} {i : Instr}
    (h : decodeOperands code bs = .ok i) : i.wf P = true := by
  unfold decodeOperands at h
  split at h
  case h_3 => -- ATOHEX
    cases h; rfl
  case h_7 => -- FRAME_ENCODE
    split at h
    · exact decodeFrameEncode_wf P h
    · cases h
  case h_9 => -- DISPATCH_RESPONSE
    split at h
    · exact decodeResponse_wf P h
    · cases h
  case h_12 => -- OTP_GET
    split at h
    · exact decodeGet_wf P h
    · cases h
  case h_13 => -- OTP_GET_VALUE
    split at h
    · exact decodeGetValue_wf P h
    · cases h
  case h_14 => -- no operation code of R84
    cases h
  all_goals -- the operations of fixed length, and CRC32C
    split at h <;> cases h
    rfl

theorem decodeOp_wf (P : Params) {bs : List Byte} {i : Instr} (h : decodeOp bs = .ok i) : i.wf P = true := by
  cases bs with
  | nil => cases h
  | cons code operands => exact decodeOperands_wf P h

/-- A response row's payload fits its len field (R170, R173). -/
theorem decodeTx_wf (P : Params) {bs : List Byte} {i : Instr} (h : decodeTx bs = .ok i) : i.wf P = true := by
  unfold decodeTx at h
  split at h
  · cases h
  · next f _ =>
    simp only at h
    split at h
    · cases h
    · next hok =>
      have hfits : payloadFits (framePayload f) = true := by simpa using (not_or.mp hok).2
      split at h
      · cases h; exact hfits
      · split at h <;> cases h
        exact hfits

/-- The rows of a request are told apart by the order R190 asks in. -/
theorem classifyRequest_wf (P : Params) {f : Frame} (h : f.wf = true) : (classifyRequest P f).wf P = true := by
  unfold classifyRequest
  split_ifs <;> simp [Instr.wf, *]

theorem decodeRx_wf (P : Params) {bs : List Byte} {i : Instr} (h : decodeRx P bs = .ok i) : i.wf P = true := by
  unfold decodeRx at h
  split at h
  · cases h
  · split at h
    · next hf => cases h; exact classifyRequest_wf P hf
    · cases h

theorem decodeHeader_wf (P : Params) {bs : List Byte} {i : Instr} (h : decodeHeader bs = .ok i) : i.wf P = true := by
  unfold decodeHeader at h
  split at h
  · simp only at h
    split at h
    · cases h
    · next hok => cases h; simpa [Instr.wf] using hok
  · cases h

theorem decodeDelim_wf (P : Params) {bs : List Byte} {i : Instr} (h : decodeDelim bs = .ok i) : i.wf P = true := by
  unfold decodeDelim at h
  split at h
  · split at h <;> cases h <;> rfl
  · cases h

theorem classifyRecord_wf (P : Params) (size : Nat) (r : RecordBody) : (classifyRecord size r).wf P = true := by
  unfold classifyRecord
  split <;> rfl

theorem decodeRecord_wf (P : Params) {bs : List Byte} {i : Instr} (h : decodeRecord bs = .ok i) : i.wf P = true := by
  unfold decodeRecord at h
  split at h <;> cases h
  exact classifyRecord_wf P _ _

/-- Settles O55, one format at a time. -/
theorem decodedInstructionIsWellFormed : Obligations.DecodedInstructionIsWellFormed := by
  rintro P ⟨format, bytes⟩ i h
  cases format with
  | op => exact decodeOp_wf P h
  | frameTx => exact decodeTx_wf P h
  | frameRx => exact decodeRx_wf P h
  | header => exact decodeHeader_wf P h
  | delim => exact decodeDelim_wf P h
  | record => exact decodeRecord_wf P h

end Sys2Proof

namespace Sys2Proof.Machine

/-! ### A step runs what it decodes -/

theorem fetch_of_decode_ok {s : State} {t : Transaction} {rest : List Transaction} {i : Instr} (hp : s.params.wf = true)
    (h : pick s.fsm s.inbox = some (t, rest)) (hd : decode s.params t = .ok i) :
    fetch s = .run i { s with inbox := rest } := by
  simp [fetch, hp, h, hd]

theorem fetch_of_decode_error {s : State} {t : Transaction} {rest : List Transaction} {e : DecodeError}
    (hp : s.params.wf = true) (h : pick s.fsm s.inbox = some (t, rest)) (hd : decode s.params t = .error e)
    (hw : wireBytes t = none) : fetch s = .refused (.undecodable e) := by
  simp [fetch, hp, h, hd, hw]

theorem fetch_of_bad_params {s : State} (hp : s.params.wf = false) : fetch s = .refused .badParameters := by
  simp [fetch, hp]

theorem step_of_run {s s' : State} {i : Instr} (h : fetch s = .run i s') : step s = exec i s' := by rw [step, h]

theorem step_of_refused {s : State} {r : Refusal} (h : fetch s = .refused r) : step s = .refused r := by rw [step, h]

/-- An operation, a frame sent and a record bring no received bytes (R14). -/
theorem wireBytes_eq_none {t : Transaction} (h : t.format = .op ∨ t.format = .frameTx ∨ t.format = .record) :
    wireBytes t = none := by
  obtain h | h | h := h <;> simp [wireBytes, h]

/-- A placed transaction that has a step is the one picked (log entry 5). -/
theorem pick_place {s : State} {t : Transaction} (ht : hasNoStep s.fsm t = false) :
    pick (place t s).fsm (place t s).inbox = some (t, s.inbox.filter fun u => decide (u ≠ encode .reset)) := by
  have hf : (s.inbox.filter fun u => !isReset u) = s.inbox.filter fun u => decide (u ≠ encode .reset) := by
    simp [isReset]
  simpa [place, hf] using
    pick_first s.fsm [] (s.inbox.filter fun u => decide (u ≠ encode .reset)) t (by simp) ht (by simp)

/-- Settles O58: each clause says what is fetched, and the step follows. -/
theorem stepRunsTheDecodedInstruction : Obligations.StepRunsTheDecodedInstruction := by
  refine ⟨fun s t others i hp h hd => step_of_run (fetch_of_decode_ok hp h hd), ?_, ?_, ?_,
    fun s hp => step_of_refused (fetch_of_bad_params hp)⟩
  · intro s before after t i hp hin hb ht ha hd
    exact step_of_run (fetch_of_decode_ok hp (hin ▸ pick_first s.fsm before after t hb ht ha) hd)
  · intro s nbits w i hp ht hd
    exact step_of_run (fetch_of_decode_ok (s := s.withFetchWord nbits w) hp (pick_place ht) hd)
  · intro s t others e hp h hd hformat
    exact step_of_refused (fetch_of_decode_error hp h hd (wireBytes_eq_none hformat))

/-! ### Feeding bytes -/

/-- RX_BYTE always answers a next state, so feeding is delivering (R14, R130). -/
theorem feed_eq_deliver (bs : List Byte) (s : State) : feed bs s = .next (deliver bs s) := by
  induction bs generalizing s with
  | nil => rfl
  | cons b bs ih => exact ih (receive b s)

/-- Settles O24: feeding is delivering, and so is a step on received bytes. -/
theorem everyByteSequenceIsTaken : Obligations.EveryByteSequenceIsTaken := by
  refine ⟨fun xs ys s => ⟨deliver xs s, deliver ys (deliver xs s), ?_⟩, fun f hdr s => ?_, fun s t others hp h => ?_⟩
  · simp only [feed_eq_deliver, deliver_append, and_self]
  · simp only [feed_eq_deliver]
    exact ⟨rfl, rfl, rfl, rfl, rfl, rfl, rfl⟩
  · simp only [feed_eq_deliver]
    refine ⟨?_, fun hf => step_wire hp h (by simp [wireBytes, hf, Config.sof])⟩
    rintro (hf | hf) <;> exact step_wire hp h (by simp [wireBytes, hf])

/-! ### The caller's operations -/

/-- The state with another CALLER space and other results: all that an operation of the caller can change (R31, R84). -/
def withCaller (c : Memory) (l : List OpResult) (s : State) : State := { s with caller := c, returns := l }

/-- The OTP source as the OTS reads it is the same in both states (R7, R60). -/
def sameOtp (s t : State) : Prop := t.params = s.params ∧ t.otpImage = s.otpImage ∧ t.otpBad = s.otpBad

theorem sameSurroundings.otp {s t : State} (h : sameSurroundings s t) : sameOtp s t := by
  obtain ⟨hparams, himage, hbad, -⟩ := h
  exact ⟨hparams, himage, hbad⟩

theorem sameSurroundings.caller {s t : State} (h : sameSurroundings s t) : t.caller = s.caller := by
  obtain ⟨-, -, -, hcaller, -⟩ := h
  exact hcaller

theorem otpRead_congr {s t : State} (h : sameOtp s t) (off : Nat) : otpRead t off = otpRead s off := by
  obtain ⟨-, himage, hbad⟩ := h
  simp only [otpRead, himage, hbad]

theorem otpScan_congr {s t : State} (h : sameOtp s t) (tag : U32) (fuel off : Nat) (skipping : Bool) :
    otpScan t tag fuel off skipping = otpScan s tag fuel off skipping := by
  have hparams := h.1
  induction fuel generalizing off skipping with
  | zero => rfl
  | succ fuel ih => simp only [otpScan, otpRead_congr h, hparams, ih]

theorem otpCopy_congr {s t : State} (h : sameOtp s t) (base bufSize fuel : Nat) (raw : Vector Byte 8) (off total : Nat)
    (mem : Memory) : otpCopy t base bufSize fuel raw off total mem = otpCopy s base bufSize fuel raw off total mem := by
  induction fuel generalizing raw off total mem with
  | zero => rfl
  | succ fuel ih => simp only [otpCopy, otpRead_congr h, ih]

theorem otpGetValue_congr {s t : State} (h : sameOtp s t) (hc : t.caller = s.caller) (raw : Vector Byte 8)
    (offset base bufSize : Nat) : otpGetValue raw offset base bufSize t = otpGetValue raw offset base bufSize s := by
  simp only [otpGetValue, otpCopy_congr h, hc]

theorem otpGet_congr {s t : State} (h : sameOtp s t) (hc : t.caller = s.caller) (tag : U32) (base bufSize : Nat) :
    otpGet tag base bufSize t = otpGet tag base bufSize s := by
  simp only [otpGet, otpScan_congr h, otpGetValue_congr h hc, hc]

/-- The instruction always goes through: it writes the CALLER space and returns one result, both read off the
surroundings alone (R5, R62). -/
def hasCallerEffect (i : Instr) : Prop :=
  ∃ (c : State → Memory) (r : State → OpResult),
    (∀ s, exec i s = .next (withCaller (c s) (s.returns ++ [r s]) s)) ∧
    ∀ s t, sameSurroundings s t → c t = c s ∧ r t = r s

/-- An operation that only returns what it computes from its operands and TAGID_B7_BIT. -/
theorem hasCallerEffect_of_returned {i : Instr} (r : Params → OpResult)
    (h : ∀ s, exec i s = .next (returned (r s.params) s)) : hasCallerEffect i :=
  ⟨State.caller, fun s => r s.params, h, fun _ _ hst => ⟨hst.caller, congrArg r hst.otp.1⟩⟩

/-- A record row returns the record's fields and value bytes (R220; log entry 12). -/
theorem recordRow_hasCallerEffect {i : Instr} (size : BitVec 3) (r : RecordBody)
    (h : ∀ s, exec i s = decodeRow size r s) : hasCallerEffect i :=
  hasCallerEffect_of_returned
    (fun P => .record (otpDecode P.tagIdB7Bit (recordBytes size r)) (recordValue (recordBytes size r))) h

/-- An OTS operation that writes the CALLER space and returns its status. -/
theorem hasCallerEffect_of_otsReturn {i : Instr} (r : State → Status × Memory)
    (h : ∀ s, exec i s = .next (otsReturn (r s) s)) (hr : ∀ s t, sameOtp s t → t.caller = s.caller → r t = r s) :
    hasCallerEffect i :=
  ⟨fun s => (r s).2, fun s => .status (r s).1, h, fun s t hst => by
    have heq : r t = r s := hr s t hst.otp hst.caller
    simp only [heq, and_self]⟩

/-- An operation of the caller has a caller effect, or is refused in every state (FRAME_ENCODE of too long a
payload). -/
theorem callerOp_cases {i : Instr} (h : isCallerOp i = true) :
    hasCallerEffect i ∨ ∃ r, ∀ s, exec i s = .refused r := by
  cases i with
  | crc32c seed data => exact .inl (hasCallerEffect_of_returned (fun _ => .u32 (crc32c seed data)) fun _ => rfl)
  | hex2nibble ch => exact .inl (hasCallerEffect_of_returned (fun _ => .u32 (hex2nibble ch)) fun _ => rfl)
  | atohex chars => exact .inl (hasCallerEffect_of_returned (fun _ => .u32 (atohex chars)) fun _ => rfl)
  | hex2str v => exact .inl (hasCallerEffect_of_returned (fun _ => .bytes (hex2str v)) fun _ => rfl)
  | pairEncode b => exact .inl (hasCallerEffect_of_returned (fun _ => .bytes (pairEncode b)) fun _ => rfl)
  | pairDecode hi lo => exact .inl (hasCallerEffect_of_returned (fun _ => .u8 (pairDecode hi lo)) fun _ => rfl)
  | frameEncode cmd arg0 p m =>
    by_cases hp : payloadFits p = true
    · exact .inl (hasCallerEffect_of_returned (fun _ => .bytes (frameEncode cmd arg0 p m)) fun _ => if_pos hp)
    · exact .inr ⟨_, fun _ => if_neg hp⟩
  | otpDecode raw =>
    exact .inl (hasCallerEffect_of_returned (fun P => .fields (otpDecode P.tagIdB7Bit raw)) fun _ => rfl)
  | otpGet tag base n =>
    exact .inl (hasCallerEffect_of_otsReturn (otpGet tag base n) (fun _ => rfl)
      fun _ _ h hc => otpGet_congr h hc tag base n)
  | otpGetValue raw off base n =>
    exact .inl (hasCallerEffect_of_otsReturn (otpGetValue raw off base n) (fun _ => rfl)
      fun _ _ h hc => otpGetValue_congr h hc raw off base n)
  | otpRecInvalidSize0 r => exact .inl (recordRow_hasCallerEffect 0#3 r fun _ => rfl)
  | otpRecSize1 r => exact .inl (recordRow_hasCallerEffect 1#3 r fun _ => rfl)
  | otpRecSize2 r => exact .inl (recordRow_hasCallerEffect 2#3 r fun _ => rfl)
  | otpRecSize3 r => exact .inl (recordRow_hasCallerEffect 3#3 r fun _ => rfl)
  | otpRecSize4 r => exact .inl (recordRow_hasCallerEffect 4#3 r fun _ => rfl)
  | otpRecSize5 r => exact .inl (recordRow_hasCallerEffect 5#3 r fun _ => rfl)
  | otpRecSize6 r => exact .inl (recordRow_hasCallerEffect 6#3 r fun _ => rfl)
  | otpRecInvalidSize7 r => exact .inl (recordRow_hasCallerEffect 7#3 r fun _ => rfl)
  | _ => cases h

/-! ### The engine's operations -/

/-- A change of the state applied to the next state of an outcome. -/
def onNext (g : State → State) (o : Host.Outcome State Fault Refusal) : Host.Outcome State Fault Refusal :=
  match o with
  | .next s => .next (g s)
  | .fault r => .fault r
  | .refused r => .refused r

theorem onNext_eq_next {g : State → State} {o : Host.Outcome State Fault Refusal} {u : State} :
    onNext g o = .next u ↔ ∃ v, o = .next v ∧ g v = u := by
  cases o <;> simp [onNext]

/-- What an operation of the engine is: bytes delivered, a response frame, the dispatcher's response, or the reset. -/
theorem engineOp_cases {j : Instr} (h : isCallerOp j = false) :
    (∃ bs, ∀ s, exec j s = .next (deliver bs s)) ∨
    (∃ k a p m, ∀ s, exec j s = sendResponse k a p m s) ∨
    (∃ k a p, ∀ s, exec j s = execDispatchResponse k a p s) ∨
    (∀ s, exec j s = .next (resetEngine s)) := by
  cases j with
  | rxByte b => exact .inl ⟨[b], fun _ => rfl⟩
  | reqData f => exact .inl ⟨frameBytes f, fun _ => rfl⟩
  | reqXferStart f => exact .inl ⟨frameBytes f, fun _ => rfl⟩
  | reqCont f => exact .inl ⟨frameBytes f, fun _ => rfl⟩
  | reqDispatch f => exact .inl ⟨frameBytes f, fun _ => rfl⟩
  | frameGarbled hdr => exact .inl ⟨Config.sof :: hdr.toList, fun _ => rfl⟩
  | delimHex => exact .inl ⟨[Config.delimHex], fun _ => rfl⟩
  | delimBin => exact .inl ⟨[Config.delimBin], fun _ => rfl⟩
  | respAck a p m => exact .inr (.inl ⟨.ack, a, p, m, fun _ => rfl⟩)
  | respNack a p m => exact .inr (.inl ⟨.nack, a, p, m, fun _ => rfl⟩)
  | dispatchResponse k a p => exact .inr (.inr (.inl ⟨k, a, p, fun _ => rfl⟩))
  | reset => exact .inr (.inr (.inr fun _ => rfl))
  | _ => cases h

theorem sendResponse_next {k : Kind} {a : U32} {p : List Byte} {m : Mode} {s t : State}
    (h : sendResponse k a p m s = .next t) : t = respond k a p s := by
  unfold sendResponse at h
  split_ifs at h
  cases h; rfl

theorem execDispatchResponse_next {k : Kind} {a : U32} {p : List Byte} {s t : State}
    (h : execDispatchResponse k a p s = .next t) : t = dispatcherResponds k a p s := by
  unfold execDispatchResponse at h
  split_ifs at h
  cases h; rfl

/-- An operation of the engine leaves its surroundings alone (R5, R33, R37, R62). -/
theorem engineOp_surroundings {j : Instr} (h : isCallerOp j = false) {s t : State} (ht : exec j s = .next t) :
    sameSurroundings s t := by
  obtain ⟨bs, hj⟩ | ⟨k, a, p, m, hj⟩ | ⟨k, a, p, hj⟩ | hj := engineOp_cases h <;> rw [hj] at ht
  · cases ht; exact deliver_surroundings bs s
  · cases sendResponse_next ht; exact ⟨rfl, rfl, rfl, rfl, rfl, rfl⟩
  · cases execDispatchResponse_next ht; exact ⟨rfl, rfl, rfl, rfl, rfl, rfl⟩
  · cases ht; exact ⟨rfl, rfl, rfl, rfl, rfl, rfl⟩

theorem deliver_withCaller (bs : List Byte) (c : Memory) (l : List OpResult) (s : State) :
    deliver bs (withCaller c l s) = withCaller c l (deliver bs s) := by
  obtain ⟨-, -, -, -, -, hinbox⟩ := deliver_surroundings bs s
  calc deliver bs (withCaller c l s)
      = { deliver bs s with inbox := s.inbox, caller := c, returns := l } := deliver_outside bs s.inbox c l s
    _ = withCaller c l (deliver bs s) := by rw [withCaller, hinbox]

/-- An operation of the engine goes the same way whatever the CALLER space and the results hold (R5, R62). -/
theorem engineOp_withCaller {j : Instr} (h : isCallerOp j = false) (c : Memory) (l : List OpResult) (s : State) :
    exec j (withCaller c l s) = onNext (withCaller c l) (exec j s) := by
  obtain ⟨bs, hj⟩ | ⟨k, a, p, m, hj⟩ | ⟨k, a, p, hj⟩ | hj := engineOp_cases h <;> simp only [hj]
  · rw [deliver_withCaller]; rfl
  · unfold sendResponse withCaller
    split_ifs <;> rfl
  · unfold execDispatchResponse withCaller
    split_ifs <;> rfl
  · rfl

/-! ### The two units -/

/-- Settles O47, from what each kind of operation can do (`callerOp_cases`, `engineOp_surroundings`). -/
theorem unitsDoNotTouchEachOther : Obligations.UnitsDoNotTouchEachOther := by
  intro i s t ht
  constructor
  · intro hi
    obtain ⟨c, r, hexec, -⟩ | ⟨r, hrefused⟩ := callerOp_cases hi
    · rw [hexec] at ht
      cases ht
      simp [sameEngine, withCaller]
    · rw [hrefused] at ht
      cases ht
  · intro hi
    obtain ⟨-, -, -, hcaller, hreturns, -⟩ := engineOp_surroundings hi ht
    exact ⟨hcaller, hreturns⟩

/-- Settles O48: what the caller's operation reads, the engine's leaves alone, and the other way round. -/
theorem unitsCommute : Obligations.UnitsCommute := by
  intro i j s u hi hj
  obtain ⟨c, r, hexec, hcongr⟩ | ⟨r, hrefused⟩ := callerOp_cases hi
  · have hafter : ∀ v, exec j s = .next v →
        exec i v = .next (withCaller (c s) (s.returns ++ [r s]) v) := fun v hv => by
      have hsame := engineOp_surroundings hj hv
      obtain ⟨hc, hr⟩ := hcongr s v hsame
      obtain ⟨-, -, -, -, hreturns, -⟩ := hsame
      rw [hexec, hc, hr, hreturns]
    calc (∃ t, exec i s = .next t ∧ exec j t = .next u)
        ↔ exec j (withCaller (c s) (s.returns ++ [r s]) s) = .next u := by simp [hexec]
      _ ↔ ∃ v, exec j s = .next v ∧ withCaller (c s) (s.returns ++ [r s]) v = u := by
          rw [engineOp_withCaller hj, onNext_eq_next]
      _ ↔ ∃ v, exec j s = .next v ∧ exec i v = .next u := by
          refine exists_congr fun v => and_congr_right fun hv => ?_
          simp [hafter v hv]
  · simp [hrefused]

end Sys2Proof.Machine

/-! The statements of the machine's registers (spec/10_state.md): what a receive step can do, the two invariants, which
hold at reset and are kept by every step, and what moves RESP_MODE and DATA_EXPECTED (R28, R29). -/

namespace Sys2Proof.Machine

/-! ### What a receive step can do -/

/-- The outcomes of one receive step on `b` (R130), with the condition each needs. -/
inductive RxStep (b : Byte) (s : State) : State → Prop where
  /-- A byte that is no SOF between frames (R131), or a state that takes no byte (R142). -/
  | ignored (h : (s.fsm = .awaitSof ∧ b ≠ Config.sof) ∨ takesByte s = false) : RxStep b s s
  /-- SOF (R131). -/
  | sof (hf : s.fsm = .awaitSof) (hb : b = Config.sof) : RxStep b s (goto .readHeader { s with hidx := 0 })
  /-- A header byte before the 20th (R132). -/
  | headerByte (hf : s.fsm = .readHeader) (hi : s.hidx ≠ 19) : RxStep b s (storeHeader b s)
  /-- The 20th header byte of a header that passes the structural check (R133, R135). -/
  | accepted (hf : s.fsm = .readHeader) (hi : s.hidx = 19) (hok : headerOk (storeHeader b s).hdr = true) :
      RxStep b s (acceptHeader (storeHeader b s))
  /-- The 20th header byte of a header that fails it (R134). -/
  | garbled (hf : s.fsm = .readHeader) (hi : s.hidx = 19) (hbad : headerOk (storeHeader b s).hdr = false) :
      RxStep b s (garbledHeader (storeHeader b s))
  /-- A payload byte in BIN mode (R136). -/
  | binByte (hf : s.fsm = .readPayload) (hm : s.reqMode = .bin) : RxStep b s (payloadDone (storePayload b (foldCrc b s)))
  /-- The first character of a pair in HEX mode (R137). -/
  | highNibble (hf : s.fsm = .readPayload) (hm : s.reqMode = .hex) (hp : s.phase = 0) :
      RxStep b s (holdHigh b (foldCrc b s))
  /-- The second character of a pair in HEX mode (R137). -/
  | lowNibble (hf : s.fsm = .readPayload) (hm : s.reqMode = .hex) (hp : s.phase = 1) :
      RxStep b s (payloadDone (pairDone (storePayload (pairDecode s.hold b) (foldCrc b s))))
  /-- A trailer character before the 8th (R139). -/
  | trailerByte (hf : s.fsm = .readCrc) (hi : s.tidx ≠ 7) : RxStep b s (storeTrailer b s)
  /-- The 8th trailer character (R139). -/
  | decided (hf : s.fsm = .readCrc) (hi : s.tidx = 7) :
      RxStep b s (frameDecision (goto .awaitSof (storeTrailer b s)))

theorem rxHeader_rxStep {b : Byte} {s : State} (hf : s.fsm = .readHeader) : RxStep b s (rxHeader b s) := by
  unfold rxHeader checkHeader
  split_ifs with hi hok
  · exact .accepted hf (by simpa [Config.hdrLen] using hi) hok
  · exact .garbled hf (by simpa [Config.hdrLen] using hi) (by simpa using hok)
  · exact .headerByte hf (by simpa [Config.hdrLen] using hi)

theorem rxPayloadHex_rxStep {b : Byte} {s : State} (hf : s.fsm = .readPayload) (hm : s.reqMode = .hex) :
    RxStep b s (rxPayloadHex b s) := by
  unfold rxPayloadHex
  split_ifs with hp
  · exact .highNibble hf hm hp
  · exact .lowNibble hf hm (by omega)

theorem rxTrailer_rxStep {b : Byte} {s : State} (hf : s.fsm = .readCrc) : RxStep b s (rxTrailer b s) := by
  unfold rxTrailer
  split_ifs with hi
  · exact .decided hf (by simpa [Config.trailerLen] using hi)
  · exact .trailerByte hf (by simpa [Config.trailerLen] using hi)

theorem rxRule_rxStep (b : Byte) (s : State) : RxStep b s (rxRule b s) := by
  unfold rxRule
  split
  · next hf =>
    unfold rxAwaitSof
    split_ifs with hb
    · exact .sof hf hb
    · exact .ignored (.inl ⟨hf, hb⟩)
  · next hf => exact rxHeader_rxStep hf
  · next hf =>
    split
    · next hm => exact .binByte hf hm
    · next hm => exact rxPayloadHex_rxStep hf hm
  · next hf => exact rxTrailer_rxStep hf
  · next hf => exact .ignored (.inr (by simp [takesByte, hf]))
  · next hf => exact .ignored (.inr (by simp [takesByte, hf]))

/-- What the 8th trailer character decides (R139 to R141, R190, R191): the request is rejected with an error, its chunk is
stored, or it goes to the dispatcher. -/
theorem frameDecision_cases (s : State) :
    (∃ e, frameDecision s = errorEntry e s) ∨
    (atohex s.trl.toList = s.crcAcc ∧ s.reqLen.toNat ≤ s.params.payloadMax ∧
      ((s.params.cmdData = some s.reqCmd ∧ s.reqArg0.toNat = s.dataExpected ∧
          s.dataExpected + s.reqLen.toNat ≤ s.params.destSize ∧ frameDecision s = acceptChunk s) ∨
        (s.params.cmdData ≠ some s.reqCmd ∧ frameDecision s = dispatchRequest (restartTransfer s)))) := by
  unfold frameDecision crcMatched routeFrame dataSequencer
  split_ifs with hcrc hlen hdata horder hcap
  · exact .inl ⟨_, rfl⟩
  · exact .inl ⟨_, rfl⟩
  · exact .inl ⟨_, rfl⟩
  · exact .inr ⟨hcrc, by omega, .inl ⟨hdata, by omega, by omega, rfl⟩⟩
  · exact .inr ⟨hcrc, by omega, .inr ⟨hdata, rfl⟩⟩
  · exact .inl ⟨_, rfl⟩

/-! ### What the register invariant needs of each operation -/

/-- Outside a frame the links between STATE and the registers say only that no request is pending. -/
theorem inv_outside_frame {s : State} (hf : s.fsm = .awaitSof ∨ s.fsm = .exited) (hm : s.MemoriesWf)
    (hhidx : s.hidx ≤ 20) (htidx : s.tidx ≤ 8) (hp : s.pending = none) (hd : s.dataExpected ≤ s.params.destSize) :
    s.Inv := by
  refine ⟨hm, hhidx, ?_, htidx, ?_, ?_, ?_, ?_, ?_, ?_, ?_, hd⟩ <;> obtain hf | hf := hf <;> simp [hf, hp]

theorem State.Inv.pending_eq_none {s : State} (hs : s.Inv) (hf : s.fsm ≠ .dispatchWait) : s.pending = none := by
  simpa using mt hs.pending_iff.mp hf

theorem errorEntry_inv {s : State} (e : EngineError) (hs : s.Inv) (hp : s.pending = none) : (errorEntry e s).Inv :=
  inv_outside_frame (.inl rfl) { hs.memories with } hs.hidx_le hs.tidx_le hp hs.dataExpected_le

theorem garbledHeader_inv {s : State} (hs : (goto .awaitSof s).Inv) (hp : s.pending = none) : (garbledHeader s).Inv := by
  unfold garbledHeader
  split
  · exact errorEntry_inv (s := goto .awaitSof s) .garbled hs hp
  · exact hs

theorem acceptChunk_inv {s : State} (hs : s.Inv) (hp : s.pending = none)
    (hcap : s.dataExpected + s.reqLen.toNat ≤ s.params.destSize) : (acceptChunk s).Inv :=
  inv_outside_frame (.inl rfl)
    { hs.memories with dest := Memory.wf_writeBytes _ _ hs.memories.dest } hs.hidx_le hs.tidx_le hp hcap

theorem restartTransfer_eq (s : State) : restartTransfer s =
    { s with dataExpected := if s.params.cmdXferStart = some s.reqCmd then 0 else s.dataExpected } := by
  unfold restartTransfer
  split <;> rfl

theorem restartTransfer_inv {s : State} (hs : s.Inv) : (restartTransfer s).Inv := by
  unfold restartTransfer
  split
  · exact { hs with memories := { hs.memories with }, dataExpected_le := Nat.zero_le _ }
  · exact hs

/-- A request that fits PBUF and is in RESP_MODE may wait for the dispatcher (R30, R143). -/
theorem dispatchRequest_inv {s : State} (hs : s.Inv) (hlen : s.reqLen.toNat ≤ s.params.payloadMax)
    (hmode : s.respMode = s.reqMode) : (dispatchRequest s).Inv :=
  { hs with
    memories := { hs.memories with }
    hidx_lt := nofun
    tidx_lt := nofun
    pcnt_lt := nofun
    pcnt_eq := nofun
    phase_zero := nofun
    respMode_eq := fun _ => hmode
    pending_iff := ⟨fun _ => rfl, fun _ => rfl⟩
    pending_payload := fun q hq => by
      cases hq
      exact ⟨Memory.readBytes_length _ _ _, hlen, hmode.symm⟩ }

theorem frameDecision_inv {s : State} (hs : s.Inv) (hp : s.pending = none) (hmode : s.respMode = s.reqMode) :
    (frameDecision s).Inv := by
  obtain ⟨e, h⟩ | ⟨-, hlen, ⟨-, -, hcap, h⟩ | ⟨-, h⟩⟩ := frameDecision_cases s <;> rw [h]
  · exact errorEntry_inv e hs hp
  · exact acceptChunk_inv hs hp hcap
  · have hr := restartTransfer_inv hs
    rw [restartTransfer_eq] at hr ⊢
    exact dispatchRequest_inv hr hlen hmode

/-- An accepted header opens a payload, or a trailer where `len` is 0 (R135). -/
theorem acceptHeader_inv {s : State} (hm : s.MemoriesWf) (hhidx : s.hidx ≤ 20) (hp : s.pending = none)
    (hd : s.dataExpected ≤ s.params.destSize) : (acceptHeader s).Inv where
  memories := { hm with }
  hidx_le := hhidx
  hidx_lt := by simp only [acceptHeader]; split <;> simp
  tidx_le := Nat.zero_le _
  tidx_lt := fun _ => Nat.zero_lt_succ _
  pcnt_lt := by
    simp only [acceptHeader]
    split
    · simp
    · next hlen => exact fun _ => Nat.pos_of_ne_zero fun h => hlen (BitVec.eq_of_toNat_eq h)
  pcnt_eq := by
    simp only [acceptHeader]
    split
    · next hlen => simp [hlen]
    · simp
  phase_zero := fun _ => rfl
  respMode_eq := fun _ => rfl
  pending_iff := by simp only [acceptHeader, hp]; split <;> simp
  pending_payload := by simp [acceptHeader, hp]
  dataExpected_le := hd

/-- A payload byte is stored and counted, and the last one opens the trailer (R136 to R138). -/
theorem payloadByte_inv {s : State} (v b : Byte) (hs : s.Inv) (hf : s.fsm = .readPayload) :
    (payloadDone (pairDone (storePayload v (foldCrc b s)))).Inv := by
  have hm : (pairDone (storePayload v (foldCrc b s))).MemoriesWf :=
    { hs.memories with pbuf := wf_bufferWrite _ _ _ hs.memories.pbuf }
  have hlt := hs.pcnt_lt hf
  unfold payloadDone
  split
  · next hdone =>
    exact { hs with
      memories := { hm with }
      hidx_lt := nofun
      tidx_le := Nat.zero_le _
      tidx_lt := fun _ => Nat.zero_lt_succ _
      pcnt_lt := nofun
      pcnt_eq := fun _ => hdone
      phase_zero := fun _ => rfl
      respMode_eq := fun _ => hs.respMode_eq (.inl hf)
      pending_iff := by simp [hs.pending_eq_none, hf] }
  · next hmore =>
    exact { hs with
      memories := hm
      pcnt_lt := fun _ => Nat.lt_of_le_of_ne hlt hmore
      pcnt_eq := by simp [hf]
      phase_zero := fun _ => rfl }

theorem pairDone_of_phase_zero {s : State} (hp : s.phase = 0) : pairDone s = s := by
  cases s
  cases hp
  rfl

theorem RxStep.inv {b : Byte} {s t : State} (h : RxStep b s t) (hs : s.Inv) : t.Inv := by
  cases h with
  | ignored => exact hs
  | sof hf =>
    exact { hs with
      memories := { hs.memories with }
      hidx_le := Nat.zero_le _
      hidx_lt := fun _ => Nat.zero_lt_succ _
      tidx_lt := nofun
      pcnt_lt := nofun
      pcnt_eq := nofun
      phase_zero := nofun
      respMode_eq := nofun
      pending_iff := by simp [hs.pending_eq_none, hf] }
  | headerByte hf hi =>
    have hlt := hs.hidx_lt hf
    exact { hs with
      memories := { hs.memories with }
      hidx_le := hlt
      hidx_lt := fun _ => by simp; omega }
  | accepted hf hi =>
    exact acceptHeader_inv { hs.memories with } (by simp [hi]) (hs.pending_eq_none (by simp [hf])) hs.dataExpected_le
  | garbled hf hi =>
    have hp := hs.pending_eq_none (by simp [hf])
    exact garbledHeader_inv
      (inv_outside_frame (.inl rfl) { hs.memories with } (by simp [hi]) hs.tidx_le hp hs.dataExpected_le) hp
  | binByte hf hm =>
    rw [← pairDone_of_phase_zero (s := storePayload b (foldCrc b s)) (hs.phase_zero (.inr ⟨hf, hm⟩))]
    exact payloadByte_inv b b hs hf
  | highNibble hf hm =>
    exact { hs with
      memories := { hs.memories with }
      phase_zero := by simp [hf, hm] }
  | lowNibble hf => exact payloadByte_inv _ b hs hf
  | trailerByte hf hi =>
    have hlt := hs.tidx_lt hf
    exact { hs with
      memories := { hs.memories with }
      tidx_le := hlt
      tidx_lt := fun _ => by simp; omega }
  | decided hf hi =>
    have hp := hs.pending_eq_none (by simp [hf])
    exact frameDecision_inv
      (inv_outside_frame (.inl rfl) { hs.memories with } hs.hidx_le (by simp [hi]) hp hs.dataExpected_le) hp
      (hs.respMode_eq (.inr (.inl hf)))

theorem dispatcherResponds_inv {s : State} (k : Kind) (a : U32) (p : List Byte) (hs : s.Inv) :
    (dispatcherResponds k a p s).Inv :=
  inv_outside_frame (by simp only [dispatcherResponds, goto_fsm]; split <;> simp) { hs.memories with } hs.hidx_le
    hs.tidx_le rfl hs.dataExpected_le

theorem resetEngine_inv {s : State} (hm : s.MemoriesWf) : (resetEngine s).Inv :=
  inv_outside_frame (.inl rfl) { hm with pbuf := rfl } (Nat.zero_le _) (Nat.zero_le _) rfl (Nat.zero_le _)

/-! ### What a step can do -/

/-- The state with other streams, another inbox, another CALLER space and other results: all that lies outside the engine's
registers, DEST and the launch inputs. -/
def withOutside (c : Memory) (r : List Byte) (x : List TxEvent) (i : List Transaction) (l : List OpResult)
    (s : State) : State :=
  { s with caller := c, rx := r, tx := x, inbox := i, returns := l }

/-- In DISPATCH_WAIT and EXITED no rule changes anything (R142). -/
theorem rxRule_of_waiting {b : Byte} {s : State} (h : takesByte s = false) : rxRule b s = s := by
  cases hf : s.fsm with
  | dispatchWait => simp [rxRule, hf]
  | exited => simp [rxRule, hf]
  | _ => simp [takesByte, hf] at h

/-- The engine takes the oldest byte of a queue that is not empty, or waits (R54, R142). -/
theorem engineTake_of_queue {s : State} (h : s.rx ≠ []) : ∃ b r, engineTake s = { rxRule b s with rx := r } := by
  obtain ⟨b, rest, hrx⟩ := List.exists_cons_of_ne_nil h
  unfold engineTake
  split_ifs with ht
  · simp only [hrx]
    exact ⟨b, rest, rxRule_rx b rest s⟩
  · exact ⟨b, s.rx, by rw [rxRule_of_waiting (by simpa using ht)]⟩

theorem receive_eq_rxRule (b : Byte) (s : State) : ∃ b' r, receive b s = { rxRule b' s with rx := r } := by
  obtain ⟨b', r, h⟩ := engineTake_of_queue (s := { s with rx := s.rx ++ [b] }) (by simp)
  exact ⟨b', r, by rw [receive, h, rxRule_rx]⟩

/-- An operation of the caller changes the CALLER space and the results alone, and keeps the CALLER space canonical
(R31, R53). -/
theorem callerOp_next {i : Instr} (h : isCallerOp i = true) {s t : State} (ht : exec i s = .next t) :
    ∃ c l, t = withCaller c l s ∧ (Memory.wf s.caller = true → Memory.wf c = true) := by
  cases i with
  | otpGet tag base n => cases ht; exact ⟨_, _, rfl, fun hc => (otpGet_frame tag base n s hc).1⟩
  | otpGetValue raw off base n => cases ht; exact ⟨_, _, rfl, fun hc => (otpGetValue_frame raw off base n s hc).1⟩
  | frameEncode cmd arg0 p m =>
    have hp : exec (.frameEncode cmd arg0 p m) s = execFrameEncode cmd arg0 p m s := rfl
    rw [hp, execFrameEncode] at ht
    split_ifs at ht
    cases ht
    exact ⟨_, _, rfl, id⟩
  | _ => cases h <;> cases ht <;> exact ⟨_, _, rfl, id⟩

/-- What is fetched is run or delivered in the state with another inbox (log entry 5). -/
theorem fetch_state {s s' : State} (h : (∃ i, fetch s = .run i s') ∨ ∃ bs, fetch s = .wire bs s') :
    ∃ inbox, s' = { s with inbox := inbox } := by
  unfold fetch at h
  split_ifs at h
  · simp at h
  · split at h
    · simp at h
    · split at h
      · split at h
        · obtain ⟨i, h⟩ | ⟨bs, h⟩ := h <;> cases h
          exact ⟨_, rfl⟩
        · simp at h
      · obtain ⟨i, h⟩ | ⟨bs, h⟩ := h <;> cases h
        exact ⟨_, rfl⟩

/-- A step runs an instruction, delivers received bytes, or lets the engine take a byte; only the inbox changes before
that. -/
theorem step_cases {s t : State} (h : step s = .next t) :
    ∃ inbox, (∃ i, exec i { s with inbox := inbox } = .next t) ∨ (∃ bs, t = deliver bs { s with inbox := inbox }) ∨
      ∃ b r, t = { rxRule b { s with inbox := inbox } with rx := r } := by
  unfold step at h
  split at h
  · next i s' hfetch =>
    obtain ⟨inbox, rfl⟩ := fetch_state (.inl ⟨i, hfetch⟩)
    exact ⟨inbox, .inl ⟨i, h⟩⟩
  · next bs s' hfetch =>
    obtain ⟨inbox, rfl⟩ := fetch_state (.inr ⟨bs, hfetch⟩)
    cases h
    exact ⟨inbox, .inr (.inl ⟨bs, rfl⟩)⟩
  · unfold engineAlone at h
    split_ifs at h with hq
    cases h
    exact ⟨[], .inr (.inr (engineTake_of_queue (s := { s with inbox := [] }) hq.2))⟩
  · cases h

/-- A property of states that every move of the machine keeps: a change outside the engine, a receive step, the
dispatcher's response, and the reset. -/
structure KeptByMoves (P : State → Prop) : Prop where
  outside : ∀ c r x i l s, (Memory.wf s.caller = true → Memory.wf c = true) → P s → P (withOutside c r x i l s)
  rxRule : ∀ b s, P s → P (rxRule b s)
  dispatcherResponds : ∀ k a p s, P s → P (dispatcherResponds k a p s)
  resetEngine : ∀ s, P s → P (resetEngine s)

namespace KeptByMoves

variable {P : State → Prop} (hP : KeptByMoves P)
include hP

theorem after_rxRule {s : State} (b : Byte) (r : List Byte) (hs : P s) : P { Machine.rxRule b s with rx := r } :=
  hP.outside _ r _ _ _ _ id (hP.rxRule b s hs)

theorem after_deliver {s : State} (bs : List Byte) (hs : P s) : P (deliver bs s) := by
  induction bs generalizing s with
  | nil => exact hs
  | cons b bs ih =>
    obtain ⟨b', r, h⟩ := receive_eq_rxRule b s
    refine ih ?_
    rw [h]
    exact hP.after_rxRule b' r hs

theorem after_exec {i : Instr} {s t : State} (hs : P s) (ht : exec i s = .next t) : P t := by
  cases hi : isCallerOp i with
  | true =>
    obtain ⟨c, l, rfl, hc⟩ := callerOp_next hi ht
    exact hP.outside c _ _ _ l s hc hs
  | false =>
    obtain ⟨bs, hj⟩ | ⟨k, a, p, m, hj⟩ | ⟨k, a, p, hj⟩ | hj := engineOp_cases hi <;> rw [hj] at ht
    · cases ht; exact hP.after_deliver bs hs
    · cases sendResponse_next ht; exact hP.outside _ _ _ _ _ s id hs
    · cases execDispatchResponse_next ht; exact hP.dispatcherResponds k a p s hs
    · cases ht; exact hP.resetEngine s hs

theorem after_step {s t : State} (hs : P s) (ht : step s = .next t) : P t := by
  obtain ⟨inbox, h⟩ := step_cases ht
  have hs' : P { s with inbox := inbox } := hP.outside _ _ _ inbox _ s id hs
  obtain ⟨i, hexec⟩ | ⟨bs, rfl⟩ | ⟨b, r, rfl⟩ := h
  · exact hP.after_exec hs' hexec
  · exact hP.after_deliver bs hs'
  · exact hP.after_rxRule b r hs'

end KeptByMoves

/-! ### The register invariant -/

theorem inv_keptByMoves : KeptByMoves State.Inv where
  outside _ _ _ _ _ _ hc hs := { hs with memories := { hs.memories with caller := hc hs.memories.caller } }
  rxRule b s hs := (rxRule_rxStep b s).inv hs
  dispatcherResponds k a p _ hs := dispatcherResponds_inv k a p hs
  resetEngine _ hs := resetEngine_inv hs.memories

/-- Settles O52: every move keeps State.Inv, so every step does. -/
theorem stepKeepsTheRegisterInvariant : Obligations.StepKeepsTheRegisterInvariant :=
  fun _ _ hs ht => inv_keptByMoves.after_step hs ht

/-! ### The frame invariant -/

@[simp] theorem garbledHeader_fsm (s : State) : (garbledHeader s).fsm = .awaitSof := by
  unfold garbledHeader; split <;> rfl

theorem frameInv_outside_frame {s : State} (hr : s.fsm ≠ .readPayload) (hc : s.fsm ≠ .readCrc)
    (hw : s.fsm ≠ .dispatchWait) : s.FrameInv :=
  ⟨fun h => (h.elim hr hc).elim, fun h => (hw h).elim⟩

theorem frameInv_of_payloadSoFar {s : State} {w : List Byte} (ha : s.HeaderAccepted) (hw : s.PayloadSoFar w)
    (hf : s.fsm ≠ .dispatchWait) : s.FrameInv :=
  ⟨fun _ => ⟨ha, w, hw⟩, fun h => (hf h).elim⟩

/-- Between an accepted header and its payload nothing of the payload has arrived (R135). -/
theorem acceptHeader_frameInv {s : State} (hok : headerOk s.hdr = true) : (acceptHeader s).FrameInv := by
  have hw : (acceptHeader s).PayloadSoFar [] :=
    { length := by cases h : headerMode s.hdr <;> simp [acceptHeader, wireLen, h]
      crc := by simp [acceptHeader]
      hold := by simp [acceptHeader]
      buffer := fun i hi => absurd hi (Nat.not_lt_zero i) }
  refine frameInv_of_payloadSoFar ⟨hok, rfl, rfl, rfl, rfl⟩ hw ?_
  simp only [acceptHeader]
  split <;> simp

/-- The wire bytes that PCNT counts decode to PCNT bytes (R72). -/
theorem State.PayloadSoFar.decoded_length {s : State} {w : List Byte} (hw : s.PayloadSoFar w) :
    (decodePayload (w.take (wireLen s.pcnt s.reqMode)) s.reqMode).length = s.pcnt :=
  decodePayload_length _ _ _ (by rw [List.length_take, hw.length]; omega)

theorem read_bufferWrite {m : Memory} (h : Memory.wf m = true) (cap i x : Nat) (v : Byte) :
    Memory.read (bufferWrite cap m i v) x = if x = i ∧ i < cap then v else Memory.read m x := by
  unfold bufferWrite
  split
  · rw [Memory.read_write h]; simp [*]
  · simp [*]

/-- A byte that completes the payload byte `v` is folded, stored and counted (R136, R137). -/
theorem State.PayloadSoFar.store {s : State} {w : List Byte} {v b : Byte} (hw : s.PayloadSoFar w)
    (hpbuf : Memory.wf s.pbuf = true) (hlen : (w ++ [b]).length = wireLen (s.pcnt + 1) s.reqMode)
    (hdec : decodePayload (w ++ [b]) s.reqMode =
      decodePayload (w.take (wireLen s.pcnt s.reqMode)) s.reqMode ++ [v]) :
    (pairDone (storePayload v (foldCrc b s))).PayloadSoFar (w ++ [b]) where
  length := by simpa using hlen
  crc := by simp [hw.crc, ← crc32c_append]
  hold := by simp
  buffer i hi hcap := by
    have hlast := hw.decoded_length
    simp only [pairDone_pcnt, storePayload_pcnt, foldCrc_pcnt] at hi
    have hcap' : i < s.params.payloadMax := hcap
    have htake : (w ++ [b]).take (wireLen (s.pcnt + 1) s.reqMode) = w ++ [b] :=
      List.take_of_length_le (by omega)
    simp only [pairDone_pbuf, storePayload_pbuf, foldCrc_pbuf, foldCrc_params, foldCrc_pcnt, pairDone_pcnt,
      storePayload_pcnt, pairDone_reqMode, storePayload_reqMode, foldCrc_reqMode, htake, hdec,
      read_bufferWrite hpbuf]
    by_cases h : i = s.pcnt
    · subst h
      simp [hcap', List.getD_eq_getElem?_getD, hlast]
    · have hlt : i < s.pcnt := by omega
      rw [if_neg (by simp [h]), hw.buffer i hlt hcap']
      simp [List.getD_eq_getElem?_getD, List.getElem?_append_left (hlast.symm ▸ hlt)]

/-- A BIN byte is its own payload byte (R136). -/
theorem State.PayloadSoFar.storeBin {s : State} {w : List Byte} {b : Byte} (hw : s.PayloadSoFar w)
    (hpbuf : Memory.wf s.pbuf = true) (hm : s.reqMode = .bin) (hp : s.phase = 0) :
    (pairDone (storePayload b (foldCrc b s))).PayloadSoFar (w ++ [b]) := by
  have hlen : w.length = s.pcnt := by simpa [hm, hp, wireLen] using hw.length
  refine hw.store hpbuf (by simp [hm, wireLen, hlen]) ?_
  simp [hm, decodePayload, wireLen, ← hlen]

/-- The second character of a pair decodes with the one in HOLD (R137). -/
theorem State.PayloadSoFar.storeHex {s : State} {w : List Byte} {b : Byte} (hw : s.PayloadSoFar w)
    (hpbuf : Memory.wf s.pbuf = true) (hm : s.reqMode = .hex) (hp : s.phase = 1) :
    (pairDone (storePayload (pairDecode s.hold b) (foldCrc b s))).PayloadSoFar (w ++ [b]) := by
  have hlen : w.length = 2 * s.pcnt + 1 := by simpa [hm, hp, wireLen] using hw.length
  obtain ⟨pairs, rfl⟩ := List.getLast?_eq_some_iff.mp (hw.hold hp)
  have hpairs : pairs.length = 2 * s.pcnt := by simpa using hlen
  refine hw.store hpbuf (by simp [hm, wireLen, hpairs]; omega) ?_
  rw [hm, wireLen, ← hpairs, List.take_left, decodePayload, decodePayload, List.append_assoc]
  exact unpair_append_pair pairs s.pcnt hpairs s.hold b

/-- The first character of a pair is folded and held (R137). -/
theorem State.PayloadSoFar.holdHigh {s : State} {w : List Byte} {b : Byte} (hw : s.PayloadSoFar w)
    (hp : s.phase = 0) : (holdHigh b (foldCrc b s)).PayloadSoFar (w ++ [b]) := by
  have hlen : w.length = wireLen s.pcnt s.reqMode := by simpa [hp] using hw.length
  exact { length := by simp [hlen]
          crc := by simp [hw.crc, ← crc32c_append]
          hold := by simp
          buffer := fun i hi hcap => by
            have h := hw.buffer i hi hcap
            simpa [← hlen] using h }

/-- Opening the trailer changes nothing of what has arrived (R138). -/
theorem payloadDone_frameInv {s : State} {w : List Byte} (ha : s.HeaderAccepted) (hw : s.PayloadSoFar w)
    (hf : s.fsm = .readPayload) : (payloadDone s).FrameInv := by
  unfold payloadDone
  split
  · exact frameInv_of_payloadSoFar { ha with } { hw with } (by simp)
  · exact frameInv_of_payloadSoFar ha hw (by simp [hf])

/-- With the payload complete, PBUF holds what the wire bytes decode to, as far as it fits (R191, R192). -/
theorem State.PayloadSoFar.requestPayload_eq {s : State} {w : List Byte} (hw : s.PayloadSoFar w)
    (hlen : w.length = wireLen s.reqLen.toNat s.reqMode) (hcnt : s.pcnt = s.reqLen.toNat)
    (hfit : s.reqLen.toNat ≤ s.params.payloadMax) : requestPayload s = decodePayload w s.reqMode := by
  have hdec := decodePayload_length w s.reqMode _ hlen
  rw [requestPayload, ← hdec]
  refine Memory.readBytes_eq fun i hi => ?_
  have htake : w.take (wireLen s.pcnt s.reqMode) = w := List.take_of_length_le (by rw [hcnt, hlen])
  rw [Nat.zero_add, hw.buffer i (by omega) (by omega), htake]
  simp [List.getD_eq_getElem?_getD, hi]

/-- A request comes to wait with the decoding of its bytes (R143, R192). -/
theorem dispatchRequest_frameInv {s : State} {w : List Byte} (ha : s.HeaderAccepted)
    (hlen : w.length = wireLen s.reqLen.toNat s.reqMode)
    (hcrc : atohex s.trl.toList = crc32c 0#32 (s.hdr.toList ++ w))
    (hpayload : requestPayload s = decodePayload w s.reqMode) : (dispatchRequest s).FrameInv :=
  ⟨by simp [dispatchRequest], fun _ => ⟨{ ha with }, w, hlen, hcrc, by simp [dispatchRequest, hpayload]⟩⟩

/-- After the 8th trailer character only a request whose CRC matched waits (R139 to R143). -/
theorem frameDecision_frameInv {s : State} {w : List Byte} (ha : s.HeaderAccepted) (hw : s.PayloadSoFar w)
    (hlen : w.length = wireLen s.reqLen.toNat s.reqMode) (hcnt : s.pcnt = s.reqLen.toNat) :
    (frameDecision s).FrameInv := by
  obtain ⟨e, h⟩ | ⟨hcrc, hfit, ⟨-, -, -, h⟩ | ⟨-, h⟩⟩ := frameDecision_cases s <;> rw [h]
  · exact frameInv_outside_frame nofun nofun nofun
  · exact frameInv_outside_frame nofun nofun nofun
  · rw [restartTransfer_eq]
    exact dispatchRequest_frameInv { ha with } hlen (hcrc.trans hw.crc) (hw.requestPayload_eq hlen hcnt hfit)

theorem RxStep.frameInv {b : Byte} {s t : State} (h : RxStep b s t) (hs : s.Inv) (hfr : s.FrameInv) : t.FrameInv := by
  cases h with
  | ignored => exact hfr
  | sof => exact frameInv_outside_frame (by simp) (by simp) (by simp)
  | headerByte hf => exact frameInv_outside_frame (by simp [hf]) (by simp [hf]) (by simp [hf])
  | accepted _ _ hok => exact acceptHeader_frameInv hok
  | garbled => exact frameInv_outside_frame (by simp) (by simp) (by simp)
  | binByte hf hm =>
    obtain ⟨ha, w, hw⟩ := hfr.reading (.inl hf)
    have hp := hs.phase_zero (.inr ⟨hf, hm⟩)
    rw [← pairDone_of_phase_zero (s := storePayload b (foldCrc b s)) hp]
    exact payloadDone_frameInv { ha with } (hw.storeBin hs.memories.pbuf hm hp) hf
  | highNibble hf hm hp =>
    obtain ⟨ha, w, hw⟩ := hfr.reading (.inl hf)
    exact frameInv_of_payloadSoFar { ha with } (hw.holdHigh hp) (by simp [hf])
  | lowNibble hf hm hp =>
    obtain ⟨ha, w, hw⟩ := hfr.reading (.inl hf)
    exact payloadDone_frameInv { ha with } (hw.storeHex hs.memories.pbuf hm hp) hf
  | trailerByte hf =>
    obtain ⟨ha, w, hw⟩ := hfr.reading (.inr hf)
    exact frameInv_of_payloadSoFar { ha with } { hw with } (by simp [hf])
  | decided hf =>
    obtain ⟨ha, w, hw⟩ := hfr.reading (.inr hf)
    have hcnt := hs.pcnt_eq hf
    have hlen : w.length = wireLen s.reqLen.toNat s.reqMode := by
      simpa [hs.phase_zero (.inl hf), hcnt] using hw.length
    exact frameDecision_frameInv { ha with } { hw with } hlen hcnt

/-- The two invariants are kept together: State.FrameInv needs the links of State.Inv. -/
theorem inv_frameInv_keptByMoves : KeptByMoves fun s => s.Inv ∧ s.FrameInv where
  outside c r x i l s hc h := by
    refine ⟨inv_keptByMoves.outside c r x i l s hc h.1, fun hf => ?_, fun hf => ?_⟩
    · obtain ⟨ha, w, hw⟩ := h.2.reading hf
      exact ⟨{ ha with }, w, { hw with }⟩
    · obtain ⟨ha, w, hw⟩ := h.2.waiting hf
      exact ⟨{ ha with }, w, hw⟩
  rxRule b s h := ⟨inv_keptByMoves.rxRule b s h.1, (rxRule_rxStep b s).frameInv h.1 h.2⟩
  dispatcherResponds k a p s h := by
    have hf : (dispatcherResponds k a p s).fsm = .exited ∨ (dispatcherResponds k a p s).fsm = .awaitSof := by
      simp only [dispatcherResponds, goto_fsm]
      split <;> simp
    refine ⟨inv_keptByMoves.dispatcherResponds k a p s h.1, ?_⟩
    apply frameInv_outside_frame <;> obtain hf | hf := hf <;> simp [hf]
  resetEngine s h :=
    ⟨inv_keptByMoves.resetEngine s h.1, frameInv_outside_frame (by simp) (by simp) (by simp)⟩

/-- Settles O53: every move keeps the two invariants together, so every step does. -/
theorem stepKeepsTheFrameInvariant : Obligations.StepKeepsTheFrameInvariant :=
  fun _ _ hs hfr ht => (inv_frameInv_keptByMoves.after_step ⟨hs, hfr⟩ ht).2

/-- Settles O51: State.reset is what a reset leaves, and the engine is outside a frame there. -/
theorem invariantsHoldAtReset : Obligations.InvariantsHoldAtReset :=
  ⟨resetEngine_inv (s := State.reset) ⟨rfl, rfl, rfl, rfl⟩, frameInv_outside_frame nofun nofun nofun⟩

/-- Settles O36: the fields of State.reset. -/
theorem resetStateHasSpecifiedValues : Obligations.ResetStateHasSpecifiedValues :=
  ⟨rfl, rfl, rfl, rfl, rfl, rfl, rfl, rfl⟩

/-! ### What moves DATA_EXPECTED and RESP_MODE -/

@[simp] theorem payloadDone_dataExpected (s : State) : (payloadDone s).dataExpected = s.dataExpected := by
  unfold payloadDone; split <;> rfl

@[simp] theorem payloadDone_respMode (s : State) : (payloadDone s).respMode = s.respMode := by
  unfold payloadDone; split <;> rfl

@[simp] theorem garbledHeader_dataExpected (s : State) : (garbledHeader s).dataExpected = s.dataExpected := by
  unfold garbledHeader; split <;> rfl

@[simp] theorem garbledHeader_respMode (s : State) : (garbledHeader s).respMode = s.respMode := by
  unfold garbledHeader; split <;> rfl

@[simp] theorem frameDecision_respMode (s : State) : (frameDecision s).respMode = s.respMode := by
  obtain ⟨e, h⟩ | ⟨-, -, ⟨-, -, -, h⟩ | ⟨-, h⟩⟩ := frameDecision_cases s <;> rw [h]
  · rfl
  · rfl
  · rw [restartTransfer_eq]; rfl

/-- A receive step moves DATA_EXPECTED only by the decision of a frame (R29). -/
theorem RxStep.dataExpected {b : Byte} {s t : State} (h : RxStep b s t) (hne : t.dataExpected ≠ s.dataExpected) :
    s.fsm = .readCrc ∧ s.tidx = 7 ∧ s.reqLen.toNat ≤ s.params.payloadMax ∧ atohex t.trl.toList = s.crcAcc ∧
    ((s.params.cmdData = some s.reqCmd ∧ s.reqArg0.toNat = s.dataExpected ∧
        t.dataExpected = s.dataExpected + s.reqLen.toNat ∧ t.dataExpected ≤ s.params.destSize) ∨
     (s.params.cmdXferStart = some s.reqCmd ∧ t.dataExpected = 0)) := by
  cases h with
  | decided hf hi =>
    obtain ⟨e, h⟩ | ⟨hcrc, hlen, ⟨hdata, horder, hcap, h⟩ | ⟨-, h⟩⟩ :=
      frameDecision_cases (goto .awaitSof (storeTrailer b s)) <;> rw [h] at hne ⊢
    · exact absurd rfl hne
    · exact ⟨hf, hi, hlen, hcrc, .inl ⟨hdata, horder, rfl, hcap⟩⟩
    · rw [restartTransfer_eq] at hne ⊢
      by_cases hstart : s.params.cmdXferStart = some s.reqCmd
      · exact ⟨hf, hi, hlen, hcrc, .inr ⟨hstart, if_pos hstart⟩⟩
      · exact absurd (if_neg hstart) hne
  | binByte => simp at hne
  | lowNibble => simp at hne
  | garbled => simp at hne
  | _ => exact absurd rfl hne

/-- A receive step changes RESP_MODE only by accepting a header (R28). -/
theorem RxStep.respMode {b : Byte} {s t : State} (h : RxStep b s t) (hne : t.respMode ≠ s.respMode) :
    s.fsm = .readHeader ∧ s.hidx = 19 ∧ headerOk t.hdr = true ∧ t.respMode = headerMode t.hdr := by
  cases h with
  | accepted hf hi hok => exact ⟨hf, hi, hok, rfl⟩
  | binByte => simp at hne
  | lowNibble => simp at hne
  | garbled => simp at hne
  | decided => simp at hne
  | _ => exact absurd rfl hne

theorem execRxByte_next {b : Byte} {s t : State} (h : exec (.rxByte b) s = .next t) :
    ∃ b' r, t = { rxRule b' s with rx := r } := by
  cases h
  exact receive_eq_rxRule b s

/-- The operations that are neither RESET nor bring wire bytes leave both registers alone (R28, R29). -/
theorem exec_offset_and_mode {i : Instr} {s t : State} (h : exec i s = .next t)
    (hi : isCallerOp i = true ∨ (∃ k a p, i = .dispatchResponse k a p) ∨ (∃ a p m, i = .respAck a p m) ∨
      (∃ a p m, i = .respNack a p m)) : t.dataExpected = s.dataExpected ∧ t.respMode = s.respMode := by
  obtain hi | ⟨k, a, p, rfl⟩ | ⟨a, p, m, rfl⟩ | ⟨a, p, m, rfl⟩ := hi
  · obtain ⟨c, l, rfl, -⟩ := callerOp_next hi h
    exact ⟨rfl, rfl⟩
  · cases execDispatchResponse_next h
    exact ⟨rfl, rfl⟩
  · cases sendResponse_next h
    exact ⟨rfl, rfl⟩
  · cases sendResponse_next h
    exact ⟨rfl, rfl⟩

/-- Settles O49: RX_BYTE is one receive step, which moves the offset only by a frame's decision. -/
theorem onlyDataTransferMovesTheOffset : Obligations.OnlyDataTransferMovesTheOffset := by
  refine ⟨fun b s t ht hne => ?_, fun i s t ht hi => (exec_offset_and_mode ht hi).1⟩
  obtain ⟨b', r, rfl⟩ := execRxByte_next ht
  exact (rxRule_rxStep b' s).dataExpected hne

/-- Settles O50: RX_BYTE is one receive step, which sets the mode only by accepting a header. -/
theorem onlyAcceptedHeadersSetResponseMode : Obligations.OnlyAcceptedHeadersSetResponseMode := by
  refine ⟨fun b s t ht hne => ?_, fun i s t ht hi => (exec_offset_and_mode ht hi).2⟩
  obtain ⟨b', r, rfl⟩ := execRxByte_next ht
  exact (rxRule_rxStep b' s).respMode hne

end Sys2Proof.Machine

/-! The statements of the memories and the transport (spec/20_memory.md): the oldest received byte is taken first (R54), with
or without a transaction (R130, R142), and nothing changes the parameters or the OTP source (R33, R51, R61). -/

namespace Sys2Proof.Machine

/-! ### The parameters and the OTP source -/

theorem sameOtp.trans {s t u : State} (h : sameOtp s t) (k : sameOtp t u) : sameOtp s u := by
  obtain ⟨hparams, himage, hbad⟩ := h
  obtain ⟨kparams, kimage, kbad⟩ := k
  exact ⟨kparams.trans hparams, kimage.trans himage, kbad.trans hbad⟩

/-- No move changes the parameters, OTP_IMAGE or OTP_BAD (R33, R51, R61). -/
theorem sameOtp_keptByMoves (s : State) : KeptByMoves (sameOtp s) where
  outside _ _ _ _ _ _ _ h := h
  rxRule b t h := h.trans (rxRule_surroundings b t).1.otp
  dispatcherResponds _ _ _ _ h := h
  resetEngine _ h := h

/-- Settles O46: every move keeps the parameters and the OTP source, so every instruction and every step does. -/
theorem parametersAndOtpNeverChange : Obligations.ParametersAndOtpNeverChange :=
  ⟨fun _ s _ ht => (sameOtp_keptByMoves s).after_exec ⟨rfl, rfl, rfl⟩ ht,
    fun s _ ht => (sameOtp_keptByMoves s).after_step ⟨rfl, rfl, rfl⟩ ht⟩

/-! ### The oldest byte is taken first -/

/-- The engine takes bytes in every state but DISPATCH_WAIT and EXITED (R130, R142). -/
theorem takesByte_iff (s : State) : takesByte s = true ↔ s.fsm ≠ .dispatchWait ∧ s.fsm ≠ .exited := by
  unfold takesByte
  cases s.fsm <;> simp

/-- The byte taken is the oldest of the queue, and the rest stays queued (R54). -/
theorem engineTake_of_cons (s : State) {c : Byte} {rest : List Byte} (ht : takesByte s = true) (hrx : s.rx = c :: rest) :
    engineTake s = { rxRule c s with rx := rest } := by
  rw [engineTake, if_pos ht, hrx]
  exact rxRule_rx c rest s

/-- RX_BYTE with the queue emptied takes its own byte. -/
theorem exec_rxByte_emptied (c : Byte) (s : State) (ht : takesByte s = true) :
    exec (.rxByte c) { s with rx := [] } = .next { rxRule c s with rx := [] } :=
  congrArg Host.Outcome.next ((receive_of_empty c { s with rx := [] } rfl ht).trans (rxRule_rx c [] s))

/-- RX_BYTE with bytes queued takes the oldest, and its own byte joins the queue behind the others (log entry 8). -/
theorem exec_rxByte_of_cons (b : Byte) (s : State) {c : Byte} {rest : List Byte} (ht : takesByte s = true)
    (hrx : s.rx = c :: rest) : exec (.rxByte b) s = .next { rxRule c s with rx := rest ++ [b] } := by
  have htake := engineTake_of_cons { s with rx := s.rx ++ [b] } (c := c) (rest := rest ++ [b]) ht (by simp [hrx])
  rw [rxRule_rx] at htake
  exact congrArg Host.Outcome.next htake

/-- Settles O25: both RX_BYTEs are the receive step on the oldest byte, which does not look at the queue. -/
theorem queuedBytesAreTakenFirst : Obligations.QueuedBytesAreTakenFirst := by
  intro b c rest s hwait hexit hrx
  have ht : takesByte s = true := (takesByte_iff s).mpr ⟨hwait, hexit⟩
  exact ⟨_, exec_rxByte_emptied c s ht, exec_rxByte_of_cons b s ht hrx⟩

/-! ### The engine without a transaction -/

/-- Where no transaction has a step, the engine goes on alone (log entry 13). -/
theorem step_eq_engineAlone {s : State} (hp : s.params.wf = true) (h : ∀ u ∈ s.inbox, hasNoStep s.fsm u = true) :
    step s = engineAlone s := by
  have hfetch : fetch s = .alone := by simp [fetch, hp, pick_none s.fsm h]
  rw [step, hfetch]

/-- Alone, the engine takes the oldest byte, and the responses whose turn is over are gone (R54; log entry 13). -/
theorem engineAlone_of_cons {b : Byte} {rest : List Byte} {s : State} (ht : takesByte s = true) (hrx : s.rx = b :: rest) :
    engineAlone s = .next { rxRule b { s with inbox := [] } with rx := rest } := by
  rw [engineAlone, if_pos ⟨ht, by simp [hrx]⟩, engineTake_of_cons { s with inbox := [] } ht hrx]

/-- Alone, an engine that takes no byte, or finds none, has no step (R267, R193, R196). -/
theorem engineAlone_of_stuck {s : State} (h : takesByte s = false ∨ s.rx = []) : engineAlone s = .fault (stuck s) := by
  obtain h | h := h <;> simp [engineAlone, h]

/-- Under which name nothing has a step, by what stands in the inbox and by STATE (log entry 14). -/
theorem stuck_eq (s : State) :
    stuck s = if s.inbox = [] then
        if s.fsm = .dispatchWait then .hangDispatch else if s.fsm = .exited then .exited else .hangRx
      else .responseHasNoStep := by
  unfold stuck
  by_cases hinbox : s.inbox = []
  · cases s.fsm <;> simp [hinbox]
  · simp [hinbox]

/-- Settles O59: with bytes to take the step is the receive step on the oldest, and without, it stops as `stuck` says. -/
theorem engineGoesOnAlone : Obligations.EngineGoesOnAlone := by
  intro s hp hinbox
  rw [step_eq_engineAlone hp hinbox]
  refine ⟨fun b rest hwait hexit hrx => ?_, fun hwait hexit hrx => ?_, fun hwait => ?_, fun hexit => ?_⟩
  · have ht : takesByte s = true := (takesByte_iff s).mpr ⟨hwait, hexit⟩
    exact ⟨_, exec_rxByte_emptied b { s with inbox := [] } ht, engineAlone_of_cons ht hrx⟩
  · rw [engineAlone_of_stuck (.inr hrx), stuck_eq, if_neg hwait, if_neg hexit]
  · have hempty : s.inbox = [] := List.eq_nil_iff_forall_not_mem.mpr fun u hu => by
      simpa [hwait] using hinbox u hu
    rw [engineAlone_of_stuck (.inl (by simp [takesByte, hwait])), stuck_eq, if_pos hempty, if_pos hwait]
  · rw [engineAlone_of_stuck (.inl (by simp [takesByte, hexit])), stuck_eq]
    simp [hexit]

end Sys2Proof.Machine

/-! The statements of the machine's encoding (spec/30_encoding.md): decode and encode agree in both directions (R70 to R73,
R80, R84), a record row returns the fields and the value of its bytes (R80, R81, R220), the statuses' numbers (R83), and
words of the spec. -/

namespace Sys2Proof.Machine

/-! ### The bytes of a record (R80) -/

theorem recordBytes_toList (size : BitVec 3) (r : RecordBody) :
    (recordBytes size r).toList = r.value.toList ++ [r.tagLow, (size ++ r.cont) ++ r.low] := by
  obtain ⟨⟨⟨l⟩, hl⟩, tagLow, cont, low⟩ := r
  match l, hl with
  | [_, _, _, _, _, _], _ => rfl

theorem byte7_size (size : BitVec 3) (cont : BitVec 1) (low : BitVec 4) :
    ((size ++ cont) ++ low).extractLsb' 5 3 = size :=
  (BitVec.extractLsb'_append_eq_of_le (by decide)).trans BitVec.extractLsb'_append_eq_left

theorem byte7_cont (size : BitVec 3) (cont : BitVec 1) (low : BitVec 4) :
    ((size ++ cont) ++ low).extractLsb' 4 1 = cont :=
  (BitVec.extractLsb'_append_eq_of_le (by decide)).trans BitVec.extractLsb'_append_eq_right

theorem byte7_low (size : BitVec 3) (cont : BitVec 1) (low : BitVec 4) :
    ((size ++ cont) ++ low).extractLsb' 0 4 = low := BitVec.extractLsb'_append_eq_right

theorem byte7_of_fields (b : Byte) : (b.extractLsb' 5 3 ++ b.extractLsb' 4 1) ++ b.extractLsb' 0 4 = b := by
  have hhigh : b.extractLsb' 5 3 ++ b.extractLsb' 4 1 = b.extractLsb' 4 4 :=
    BitVec.extractLsb'_append_extractLsb'_eq_extractLsb' (by decide)
  have hall : b.extractLsb' 4 4 ++ b.extractLsb' 0 4 = b.extractLsb' 0 8 :=
    BitVec.extractLsb'_append_extractLsb'_eq_extractLsb' (by decide)
  rw [hhigh, hall, BitVec.extractLsb'_eq_self]

theorem recordSize_recordBytes (size : BitVec 3) (r : RecordBody) : recordSize (recordBytes size r) = size.toNat :=
  congrArg BitVec.toNat (byte7_size size r.cont r.low)

theorem recordCont_recordBytes (size : BitVec 3) (r : RecordBody) :
    recordCont (recordBytes size r) = decide (r.cont = 1#1) := by
  have hbit : recordCont (recordBytes size r) = r.cont.getLsbD 0 :=
    BitVec.getLsbD_append.trans BitVec.getLsbD_append
  obtain h | h := BitVec.eq_zero_or_eq_one r.cont <;> rw [hbit, h] <;> rfl

/-- TAGID_B7_BIT names one of the low four bits of byte 7 (R7, R80). -/
theorem recordTag_recordBytes (bit : Fin 4) (size : BitVec 3) (r : RecordBody) :
    recordTag bit (recordBytes size r) =
      r.tagLow.setWidth 9 ||| ((r.low.extractLsb' bit.val 1).setWidth 9 <<< 8) := by
  have hlow : ((size ++ r.cont) ++ r.low).extractLsb' bit.val 1 = r.low.extractLsb' bit.val 1 :=
    BitVec.extractLsb'_append_eq_of_add_le bit.isLt
  exact congrArg (fun x => r.tagLow.setWidth 9 ||| (BitVec.setWidth 9 x <<< 8)) hlow

theorem recordValid_recordBytes (size : BitVec 3) (r : RecordBody) :
    recordValid (recordBytes size r) = decide (1 ≤ size.toNat ∧ size.toNat ≤ 6) := by
  rw [recordValid, recordSize_recordBytes, Bool.decide_and]

theorem recordValue_recordBytes (size : BitVec 3) (r : RecordBody) :
    recordValue (recordBytes size r) =
      if 1 ≤ size.toNat ∧ size.toNat ≤ 6 then r.value.toList.take size.toNat else [] := by
  simp only [recordValue, recordValid_recordBytes, decide_eq_true_eq, recordSize_recordBytes, recordBytes_toList]
  split
  · next h => exact List.take_append_of_le_length (by simpa using h.2)
  · rfl

/-- What a record row returns, by its size field and its body (R80, R81, R220; log entry 12). -/
theorem decodeRow_eq (size : BitVec 3) (r : RecordBody) (s : State) :
    decodeRow size r s = .next { s with returns := s.returns ++
      [.record ⟨size.toNat, decide (r.cont = 1#1),
          r.tagLow.setWidth 9 ||| ((r.low.extractLsb' s.params.tagIdB7Bit.val 1).setWidth 9 <<< 8),
          decide (1 ≤ size.toNat ∧ size.toNat ≤ 6)⟩
        (if 1 ≤ size.toNat ∧ size.toNat ≤ 6 then r.value.toList.take size.toNat else [])] } := by
  rw [decodeRow, otpDecode, recordSize_recordBytes, recordCont_recordBytes, recordTag_recordBytes,
    recordValid_recordBytes, recordValue_recordBytes]
  rfl

/-- Settles O38: the eight rows are `decodeRow` at the eight size fields. -/
theorem recordRowsReturnFieldsAndValue : Obligations.RecordRowsReturnFieldsAndValue := fun r s =>
  ⟨decodeRow_eq 0#3 r s, decodeRow_eq 1#3 r s, decodeRow_eq 2#3 r s, decodeRow_eq 3#3 r s,
    decodeRow_eq 4#3 r s, decodeRow_eq 5#3 r s, decodeRow_eq 6#3 r s, decodeRow_eq 7#3 r s⟩

/-! ### The numbers of the statuses (R83) -/

theorem statusI32_count {n : Nat} (h : n < 2 ^ 31) : (statusI32 (.count n)).toInt = n := by
  have hmod : n % 2 ^ 32 = n := Nat.mod_eq_of_lt (by omega)
  rw [statusI32, BitVec.toInt_eq_toNat_of_lt (by rw [BitVec.toNat_ofNat, hmod]; omega), BitVec.toNat_ofNat, hmod]

/-- Settles O45: a count below 2^31 is its own i32 (log entry 16). -/
theorem statusNumbersAreTheSpecs : Obligations.StatusNumbersAreTheSpecs :=
  ⟨by decide, by decide, by decide, fun _ => statusI32_count⟩

end Sys2Proof.Machine

namespace Sys2Proof

open Machine

/-! ### Decode of encode: the operations (R84; log entry 6) -/

@[simp] theorem modeOfByte_byteOfMode (m : Mode) : modeOfByte (byteOfMode m) = some m := by cases m <;> rfl

@[simp] theorem kindOfByte_byteOfKind (k : Kind) : kindOfByte (byteOfKind k) = some k := by cases k <;> rfl

@[simp] theorem take32_be32_nil (v : U32) : take32 (be32 v) = some (v, []) := by
  simpa using take32_be32 v []

@[simp] theorem takeNat_natBytes_nil (n : Nat) : takeNat (natBytes n) = some (n, []) := by
  simpa using takeNat_natBytes n []

/-- An OP transaction is its operation code and its operands (R84). -/
theorem decode_op (P : Params) (code : Byte) (operands : List Byte) :
    decode P ⟨.op, code :: operands⟩ = decodeOperands code.toNat operands := rfl

theorem decodeFrameEncode_operands (cmd : Byte) (arg0 : U32) {p : List Byte} (m : Mode) (h : payloadFits p = true) :
    decodeFrameEncode cmd (be32 arg0 ++ byteOfMode m :: p) = .ok (.frameEncode cmd arg0 p m) := by
  simp [decodeFrameEncode, h]

theorem decodeResponse_operands (k : Kind) (arg0 : U32) {p : List Byte} (h : payloadFits p = true) :
    decodeResponse (byteOfKind k) (be32 arg0 ++ p) = .ok (.dispatchResponse k arg0 p) := by
  simp [decodeResponse, h]

theorem decodeGet_operands (tag : U32) (base n : Nat) :
    decodeGet tag (natBytes base ++ natBytes n) = .ok (.otpGet tag base n) := by
  simp [decodeGet]

theorem decodeGetValue_operands (raw : Vector Byte 8) (offset base n : Nat) :
    decodeGetValue raw (natBytes offset ++ (natBytes base ++ natBytes n)) = .ok (.otpGetValue raw offset base n) := by
  simp [decodeGetValue]

/-! ### Decode of encode: frames (R70 to R73), headers and records -/

theorem Frame.wf_iff (f : Frame) :
    f.wf = true ↔ f.payload.length = wireLen (frameLen f) f.mode ∧ atohex f.crc.toList = frameCrc f := by
  simp [Frame.wf]

theorem decodeRx_frameBytes (P : Params) {f : Frame} (h : f.wf = true) :
    decodeRx P (frameBytes f) = .ok (classifyRequest P f) := by
  rw [decodeRx, parseFrame_frameBytes f (f.wf_iff.mp h).1]
  exact if_pos h

/-- A well-formed request is the row its command byte selects (R190). -/
theorem decodeRx_of_classify (P : Params) {f : Frame} {i : Instr} (h : f.wf = true) (hi : classifyRequest P f = i) :
    decodeRx P (frameBytes f) = .ok i := hi ▸ decodeRx_frameBytes P h

/-- A frame that FRAME_ENCODE makes is a response row by its command byte, and no row of another (R170). -/
theorem decodeTx_frameEncode (c : Byte) (a : U32) {p : List Byte} (m : Mode) (h : payloadFits p = true) :
    decodeTx (frameEncode c a p m) =
      if c = Config.cmdAck then .ok (.respAck a p m)
      else if c = Config.cmdNack then .ok (.respNack a p m)
      else .error .notAResponse := by
  have hlen : p.length < 2 ^ 32 := of_decide_eq_true h
  rw [decodeTx, parseFrame_frameEncode c a p m hlen]
  simp only [framePayload_encodedFrame]
  simp [encodedFrame, h]

theorem decodeHeader_toList {hdr : Vector Byte 20} (h : headerOk hdr = false) :
    decodeHeader hdr.toList = .ok (.frameGarbled hdr) := by
  rw [decodeHeader, dif_pos hdr.length_toList]
  exact if_neg (Bool.eq_false_iff.mp h)

theorem decodeRecord_recordBytes (size : BitVec 3) (r : RecordBody) :
    decodeRecord (recordBytes size r).toList = .ok (classifyRecord size.toNat r) := by
  rw [recordBytes_toList]
  obtain ⟨⟨⟨l⟩, hl⟩, tagLow, cont, low⟩ := r
  match l, hl with
  | [v0, v1, v2, v3, v4, v5], _ =>
    have hok := decodeRecord.eq_1 v0 v1 v2 v3 v4 v5 tagLow ((size ++ cont) ++ low)
    rwa [byte7_size, byte7_cont, byte7_low] at hok

/-- Settles O54: one round trip for each shared part of the layouts, and one line for each row. -/
theorem decodeOfEncodeIsTheInstruction : Obligations.DecodeOfEncodeIsTheInstruction := by
  intro P i hwf
  cases i with
  | crc32c seed data => simp [encode, decode_op, decodeOperands]
  | hex2nibble ch => rfl
  | atohex chars => rfl
  | hex2str v => simp [encode, decode_op, decodeOperands]
  | pairEncode b => rfl
  | pairDecode hi lo => rfl
  | frameEncode cmd arg0 p m => exact decodeFrameEncode_operands cmd arg0 m hwf
  | rxByte b => rfl
  | dispatchResponse k arg0 p => exact decodeResponse_operands k arg0 hwf
  | reset => rfl
  | otpDecode raw => simp [encode, decode_op, decodeOperands]
  | otpGet tag base n => simp [encode, decode_op, decodeOperands, decodeGet_operands]
  | otpGetValue raw offset base n =>
    simp [encode, decode_op, decodeOperands, take8_append, decodeGetValue_operands]
  | respAck arg0 p m => exact (decodeTx_frameEncode Config.cmdAck arg0 m hwf).trans rfl
  | respNack arg0 p m => exact (decodeTx_frameEncode Config.cmdNack arg0 m hwf).trans rfl
  | reqData f =>
    simp only [Instr.wf, Bool.and_eq_true, decide_eq_true_eq] at hwf
    obtain ⟨hf, hdata⟩ := hwf
    exact decodeRx_of_classify P hf (by simp [classifyRequest, hdata])
  | reqXferStart f =>
    simp only [Instr.wf, Bool.and_eq_true, decide_eq_true_eq] at hwf
    obtain ⟨⟨hf, hdata⟩, hstart⟩ := hwf
    exact decodeRx_of_classify P hf (by simp [classifyRequest, hdata, hstart])
  | reqCont f =>
    simp only [Instr.wf, Bool.and_eq_true, decide_eq_true_eq] at hwf
    obtain ⟨⟨⟨hf, hdata⟩, hstart⟩, hcont⟩ := hwf
    exact decodeRx_of_classify P hf (by simp [classifyRequest, hdata, hstart, hcont])
  | reqDispatch f =>
    simp only [Instr.wf, Bool.and_eq_true, decide_eq_true_eq] at hwf
    obtain ⟨⟨⟨hf, hdata⟩, hstart⟩, hcont⟩ := hwf
    exact decodeRx_of_classify P hf (by simp [classifyRequest, hdata, hstart, hcont])
  | frameGarbled hdr => exact decodeHeader_toList (by simpa [Instr.wf] using hwf)
  | delimHex => rfl
  | delimBin => rfl
  | otpRecInvalidSize0 r => exact decodeRecord_recordBytes 0#3 r
  | otpRecSize1 r => exact decodeRecord_recordBytes 1#3 r
  | otpRecSize2 r => exact decodeRecord_recordBytes 2#3 r
  | otpRecSize3 r => exact decodeRecord_recordBytes 3#3 r
  | otpRecSize4 r => exact decodeRecord_recordBytes 4#3 r
  | otpRecSize5 r => exact decodeRecord_recordBytes 5#3 r
  | otpRecSize6 r => exact decodeRecord_recordBytes 6#3 r
  | otpRecInvalidSize7 r => exact decodeRecord_recordBytes 7#3 r

/-! ### Encode of decode -/

theorem encode_classifyRequest (P : Params) (f : Frame) : encode (classifyRequest P f) = ⟨.frameRx, frameBytes f⟩ := by
  unfold classifyRequest
  split_ifs <;> rfl

theorem encode_of_decodeRx {P : Params} {bs : List Byte} {i : Instr} (h : decodeRx P bs = .ok i) :
    encode i = ⟨.frameRx, bs⟩ := by
  unfold decodeRx at h
  split at h
  · cases h
  · next f hparse =>
    split at h <;> cases h
    rw [encode_classifyRequest, ← (parseFrame_ok hparse).1]

/-- A response row is what FRAME_ENCODE makes of its fields: the decoder asks for it (R174). -/
theorem encode_of_decodeTx {bs : List Byte} {i : Instr} (h : decodeTx bs = .ok i) : encode i = ⟨.frameTx, bs⟩ := by
  unfold decodeTx at h
  split at h
  · cases h
  · next f _ =>
    simp only at h
    split at h
    · cases h
    · next hok =>
      have hbytes : bs = frameEncode f.cmd (atohex f.arg0.toList) (framePayload f) f.mode :=
        Decidable.not_not.mp (not_or.mp hok).1
      split at h
      · next hack => cases h; rw [encode, ← hack, ← hbytes]
      · split at h <;> cases h
        next hnack => rw [encode, ← hnack, ← hbytes]

theorem encode_of_decodeHeader {bs : List Byte} {i : Instr} (h : decodeHeader bs = .ok i) :
    encode i = ⟨.header, bs⟩ := by
  unfold decodeHeader at h
  split at h
  · simp only at h
    split at h <;> cases h
    rfl
  · cases h

theorem encode_of_decodeDelim {bs : List Byte} {i : Instr} (h : decodeDelim bs = .ok i) :
    encode i = ⟨.delim, bs⟩ := by
  unfold decodeDelim at h
  split at h
  · split at h
    · next hm => cases h; rw [modeOfDelim_some hm]; rfl
    · next hm => cases h; rw [modeOfDelim_some hm]; rfl
    · cases h
  · cases h

theorem encode_classifyRecord (size : BitVec 3) (r : RecordBody) :
    encode (classifyRecord size.toNat r) = encodeRecord size r := by
  match size with
  | 0#3 => rfl
  | 1#3 => rfl
  | 2#3 => rfl
  | 3#3 => rfl
  | 4#3 => rfl
  | 5#3 => rfl
  | 6#3 => rfl
  | 7#3 => rfl

theorem encode_of_decodeRecord {bs : List Byte} {i : Instr} (h : decodeRecord bs = .ok i) :
    encode i = ⟨.record, bs⟩ := by
  unfold decodeRecord at h
  split at h <;> cases h
  rw [encode_classifyRecord, encodeRecord, recordBytes_toList, byte7_of_fields]
  rfl

/-- Settles O56, one format at a time. -/
theorem wireBytesAreNotDropped : Obligations.WireBytesAreNotDropped := by
  rintro P ⟨format, bytes⟩ i hformat h
  cases format with
  | op => exact absurd rfl hformat
  | frameTx => exact encode_of_decodeTx h
  | frameRx => exact encode_of_decodeRx h
  | header => exact encode_of_decodeHeader h
  | delim => exact encode_of_decodeDelim h
  | record => exact encode_of_decodeRecord h

/-! ### Words of the spec -/

/-- The `V` frame of vector RX-1. -/
def versionFrame : Frame where
  cmd := 0x56#8
  arg0 := Vector.replicate 8 0x30#8
  len := Vector.replicate 8 0x30#8
  mode := .hex
  payload := []
  crc := #v[0x38#8, 0x42#8, 0x44#8, 0x41#8, 0x38#8, 0x30#8, 0x43#8, 0x42#8]

/-- Settles O57: closed words, evaluated. -/
theorem specWordsDecode : Obligations.SpecWordsDecode :=
  ⟨⟨versionFrame, by decide +kernel⟩, by decide +kernel⟩

end Sys2Proof

/-! The statements of the codec (spec/40_crc_hex.md): the CRC by its bitwise pseudocode and over a concatenation (R100,
R102), the hex digits (R103, R105), the hex field (R104, R106), the payload pair (R107, R108), and the round trips (R109). -/

namespace Sys2Proof.Machine

/-! ### CRC32C -/

theorem crc32c_concat (seed : U32) (data : List Byte) (b : Byte) :
    crc32c seed (data ++ [b]) = ~~~ crcByte (~~~ crc32c seed data) b := by
  simp [crc32c, List.foldl_append]

theorem crcByte_eq_iterate (c : U32) (b : Byte) : crcByte c b = crcBit^[8] (c ^^^ b.setWidth 32) := rfl

/-! ### Hex digits -/

/-- The digits of R105, in the order of their values. -/
def upperDigits : List Byte :=
  [0x30#8, 0x31#8, 0x32#8, 0x33#8, 0x34#8, 0x35#8, 0x36#8, 0x37#8, 0x38#8, 0x39#8,
    0x41#8, 0x42#8, 0x43#8, 0x44#8, 0x45#8, 0x46#8]

/-- A hex letter in uppercase, every other byte as it is. -/
def upcase (c : Byte) : Byte := if 0x61#8 ≤ c ∧ c ≤ 0x66#8 then c - 0x20#8 else c

theorem hexchar_eq_upperDigits : ∀ n : BitVec 4, upperDigits[n.toNat]? = some (hexchar n) := by decide

theorem hexchar_toNat :
    ∀ n : BitVec 4, (hexchar n).toNat = if n.toNat < 10 then 0x30 + n.toNat else 0x37 + n.toNat := by decide

theorem hexchar_range : ∀ n : BitVec 4, (0x30 ≤ (hexchar n).toNat ∧ (hexchar n).toNat ≤ 0x39) ∨
    (0x41 ≤ (hexchar n).toNat ∧ (hexchar n).toNat ≤ 0x46) := by decide

/-- The digit of nibble `k` of a word, by arithmetic on the word. -/
theorem hexchar_extractLsb' {w : Nat} (x : BitVec w) (k : Nat) :
    some (hexchar (x.extractLsb' (4 * k) 4)) = upperDigits[x.toNat / 16 ^ k % 16]? := by
  rw [← hexchar_eq_upperDigits, BitVec.extractLsb'_toNat, Nat.shiftRight_eq_div_pow, Nat.pow_mul]

/-- R103, with the comparisons and the differences taken over numbers. -/
theorem hex2nibble_ranges (ch : Byte) :
    if 0x30 ≤ ch.toNat ∧ ch.toNat ≤ 0x39 then (hex2nibble ch).toNat = ch.toNat - 0x30
    else if 0x61 ≤ ch.toNat ∧ ch.toNat ≤ 0x66 then (hex2nibble ch).toNat = ch.toNat - 0x61 + 10
    else if 0x41 ≤ ch.toNat ∧ ch.toNat ≤ 0x46 then (hex2nibble ch).toNat = ch.toNat - 0x41 + 10
    else hex2nibble ch = 0xFFFFFFFF#32 := by
  simp only [hex2nibble, BitVec.le_def, BitVec.toNat_ofNat, Nat.reducePow, Nat.reduceMod]
  split_ifs
  · bv_omega
  · bv_omega
  · bv_omega
  · rfl

theorem hex2nibble_lt {c : Byte} (h : hex2nibble c ≠ 0xFFFFFFFF#32) : (hex2nibble c).toNat < 16 := by
  have hc := hex2nibble_ranges c
  split_ifs at hc
  · omega
  · omega
  · omega
  · exact absurd hc h

@[simp] theorem hex2nibble_upcase (c : Byte) : hex2nibble (upcase c) = hex2nibble c := by
  unfold upcase
  split_ifs with hlower
  · have hupper : 0x41#8 ≤ c - 0x20#8 ∧ c - 0x20#8 ≤ 0x46#8 := by bv_omega
    rw [hex2nibble, if_neg (by bv_omega), if_neg (by bv_omega), if_pos hupper,
      hex2nibble, if_neg (by bv_omega), if_pos hlower]
    bv_omega
  · rfl

/-- A digit's value is written as that digit in uppercase. -/
theorem hexchar_hex2nibble {c : Byte} (h : hex2nibble c ≠ 0xFFFFFFFF#32) :
    hexchar ((hex2nibble c).setWidth 4) = upcase c := by
  have hlt := hex2nibble_lt h
  have hc := hex2nibble_ranges c
  apply BitVec.eq_of_toNat_eq
  rw [hexchar_toNat, BitVec.toNat_setWidth, Nat.mod_eq_of_lt hlt, upcase]
  split_ifs at hc ⊢ <;> bv_omega

/-! ### Hex fields -/

/-- The characters of a second part shift those of the first out by 4 bits each (R104). -/
theorem atohex_append (a b : List Byte) : atohex (a ++ b) = (atohex a <<< (4 * b.length)) ||| atohex b := by
  induction b using List.reverseRecOn with
  | nil => simp
  | append_singleton b c ih =>
    rw [← List.append_assoc, atohex_concat, atohex_concat, atohexStep, atohexStep, ih, BitVec.shiftLeft_or_distrib,
      ← BitVec.shiftLeft_add, BitVec.or_assoc, List.length_append, List.length_singleton, Nat.mul_add_one]

theorem atohex_concat_invalid (before : List Byte) {c : Byte} (h : hex2nibble c = 0xFFFFFFFF#32) :
    atohex (before ++ [c]) = 0xFFFFFFFF#32 := by
  rw [atohex_concat, atohexStep, h]
  exact BitVec.or_allOnes

/-- An invalid character leaves ones above the later characters, and below them what they give (R104). -/
theorem atohex_after_invalid (before after : List Byte) {c : Byte} (h : hex2nibble c = 0xFFFFFFFF#32) {i : Nat}
    (hi : i < 32) : (atohex (before ++ c :: after)).getLsbD i
      = if 4 * after.length ≤ i then true else (atohex after).getLsbD i := by
  have hones : (0xFFFFFFFF#32).getLsbD (i - 4 * after.length) = true := by
    rw [show 0xFFFFFFFF#32 = BitVec.allOnes 32 from rfl, BitVec.getLsbD_allOnes, decide_eq_true_eq]
    omega
  rw [List.append_cons, atohex_append, atohex_concat_invalid before h, BitVec.getLsbD_or, BitVec.getLsbD_shiftLeft,
    hones]
  split_ifs with hle
  · simp [hi, Nat.not_lt.mpr hle]
  · simp [Nat.not_le.mp hle]

/-- R104's case-insensitivity. -/
theorem atohex_map_upcase (chars : List Byte) : atohex (chars.map upcase) = atohex chars := by
  have hstep (v : U32) (c : Byte) : atohexStep v (upcase c) = atohexStep v c := by
    rw [atohexStep, hex2nibble_upcase, atohexStep]
  simp only [atohex, List.foldl_map, hstep]

theorem hex2nibble_getLsbD {c : Byte} (h : hex2nibble c ≠ 0xFFFFFFFF#32) {i : Nat} (hi : 4 ≤ i) :
    (hex2nibble c).getLsbD i = false :=
  Nat.testBit_lt_two_pow ((hex2nibble_lt h).trans_le (Nat.pow_le_pow_right Nat.two_pos hi))

/-- Digits fill no more than 4 bits each. -/
theorem atohex_getLsbD_above {chars : List Byte} (h : ∀ c ∈ chars, hex2nibble c ≠ 0xFFFFFFFF#32) {i : Nat}
    (hi : 4 * chars.length ≤ i) : (atohex chars).getLsbD i = false := by
  induction chars using List.reverseRecOn generalizing i with
  | nil => simp
  | append_singleton l c ih =>
    rw [List.length_append, List.length_singleton] at hi
    have hl : (atohex l).getLsbD (i - 4) = false :=
      ih (fun d hd => h d (List.mem_append_left _ hd)) (by omega)
    have hc : (hex2nibble c).getLsbD i = false := hex2nibble_getLsbD (h c (by simp)) (by omega)
    simp [atohex_concat, atohexStep, hl, hc]

/-- The nibble above digits is the one of the character before them. -/
theorem atohex_extractLsb' (before : List Byte) {after : List Byte} (c : Byte)
    (h : ∀ d ∈ after, hex2nibble d ≠ 0xFFFFFFFF#32) (hlen : after.length < 8) :
    (atohex (before ++ c :: after)).extractLsb' (4 * after.length) 4 = (hex2nibble c).setWidth 4 := by
  apply BitVec.eq_of_getLsbD_eq
  intro j hj
  have hafter : (atohex after).getLsbD (4 * after.length + j) = false := atohex_getLsbD_above h (by omega)
  have hbound : 4 * after.length + j < 32 := by omega
  rw [List.append_cons, atohex_append, atohex_concat, atohexStep, BitVec.getLsbD_extractLsb', BitVec.getLsbD_or, hafter,
    BitVec.getLsbD_shiftLeft, BitVec.getLsbD_or, BitVec.getLsbD_shiftLeft, BitVec.getLsbD_setWidth]
  simp [hbound, hj]

theorem hex2str_getElem (v : U32) {k : Nat} (hk : k < (hex2str v).length) :
    (hex2str v)[k] = hexchar (v.extractLsb' (4 * (7 - k)) 4) := by
  rw [hex2str_length] at hk
  have hlow : 28 - 4 * k = 4 * (7 - k) := by omega
  simp [hex2str, hlow]

theorem exists_hexchar_of_mem_hex2str {v : U32} {c : Byte} (h : c ∈ hex2str v) : ∃ n, c = hexchar n := by
  obtain ⟨k, -, rfl⟩ := List.mem_map.mp h
  exact ⟨_, rfl⟩

/-- The reverse direction of R109: a field of digits comes back in uppercase. -/
theorem hex2str_atohex {chars : List Byte} (hlen : chars.length = 8)
    (h : ∀ c ∈ chars, hex2nibble c ≠ 0xFFFFFFFF#32) :
    hex2str (atohex chars) = chars.map upcase := by
  apply List.ext_getElem (by simp [hlen])
  intro k _ hk
  rw [List.length_map] at hk
  have hafter : (chars.drop (k + 1)).length = 7 - k := by rw [List.length_drop]; omega
  have hnibble := atohex_extractLsb' (chars.take k) chars[k] (fun d hd => h d (List.mem_of_mem_drop hd))
    (show (chars.drop (k + 1)).length < 8 by omega)
  rw [List.getElem_cons_drop hk, List.take_append_drop, hafter] at hnibble
  rw [hex2str_getElem, hnibble, hexchar_hex2nibble (h _ (List.getElem_mem hk)), List.getElem_map]

/-! ### Payload pairs -/

theorem pairDecode_eq (hi lo : Byte) : pairDecode hi lo = ((hex2nibble hi <<< 4) ||| hex2nibble lo).setWidth 8 := by
  simp [pairDecode, atohex, atohexStep]

/-- A digit as the second character is the low nibble, beside the low nibble of what the first one gives. -/
theorem pairDecode_toNat (hi : Byte) {lo : Byte} (h : hex2nibble lo ≠ 0xFFFFFFFF#32) :
    (pairDecode hi lo).toNat = (16 * (hex2nibble hi).toNat + (hex2nibble lo).toNat) % 256 := by
  have hwrap (a : Nat) : a % 2 ^ 32 % 2 ^ 8 = a % 2 ^ 8 := Nat.mod_mod_of_dvd a (by decide)
  rw [pairDecode_eq, BitVec.toNat_setWidth, BitVec.toNat_or, BitVec.toNat_shiftLeft, Nat.or_mod_two_pow, hwrap,
    ← Nat.or_mod_two_pow, ← Nat.shiftLeft_add_eq_or_of_lt (hex2nibble_lt h), Nat.shiftLeft_eq, Nat.mul_comm]

/-- R108 with its two corner cases. -/
theorem pairDecode_cases (hi lo : Byte) :
    if hex2nibble lo = 0xFFFFFFFF#32 then pairDecode hi lo = 0xFF#8
    else if hex2nibble hi = 0xFFFFFFFF#32 then (pairDecode hi lo).toNat = 0xF0 + (hex2nibble lo).toNat
    else (pairDecode hi lo).toNat = 16 * (hex2nibble hi).toNat + (hex2nibble lo).toNat := by
  split_ifs with hlo hhi
  · have hfield : atohex [hi, lo] = 0xFFFFFFFF#32 := atohex_concat_invalid [hi] hlo
    rw [pairDecode, hfield]
    rfl
  · have hlt := hex2nibble_lt hlo
    rw [pairDecode_toNat hi hlo, hhi, BitVec.toNat_ofNat]
    omega
  · have hlt := hex2nibble_lt hlo
    have hlt' := hex2nibble_lt hhi
    rw [pairDecode_toNat hi hlo]
    omega

/-! ### The statements -/

/-- Settles O4: a second part of a field shifts the first one out, and an invalid character turns it into ones. -/
theorem atohexShiftsAndOrs : Obligations.AtohexShiftsAndOrs :=
  ⟨fun _ _ => rfl, atohex_nil, atohex_concat, fun before _ => atohex_concat_invalid before,
    fun before after _ _ _ h => atohex_after_invalid before after h, atohex_map_upcase⟩

/-- Settles O5: the digit of each nibble, by arithmetic. -/
theorem hexStringHasUppercaseDigits : Obligations.HexStringHasUppercaseDigits := by
  refine fun v s => ⟨hex2str v, rfl, rfl, fun k hk => ?_⟩
  have hk : k < (hex2str v).length := hk
  rw [List.getElem?_eq_getElem hk, hex2str_getElem]
  exact hexchar_extractLsb' v (7 - k)

/-- Settles O6: the two round trips of R109, and the reverse direction digit by digit. -/
theorem hexRoundTrips : Obligations.HexRoundTrips := by
  refine ⟨fun v s => ⟨rfl, ?_⟩, fun b s => ⟨_, _, rfl, ?_⟩, fun chars hback => ⟨?_, fun c hc => ?_⟩,
    fun chars => hex2str_atohex⟩
  · exact congrArg (fun w => Host.Outcome.next (returned (.u32 w) s)) (atohex_hex2str v)
  · exact congrArg (fun d => Host.Outcome.next (returned (.u8 d) s)) (pairDecode_pairEncode b)
  · rw [← hback, hex2str_length]
  · obtain ⟨n, rfl⟩ := exists_hexchar_of_mem_hex2str (hback ▸ hc)
    exact hexchar_range n

/-- Settles O1, by the append law of `crc32c`. -/
theorem crcOfConcatenationIsSeeded : Obligations.CrcOfConcatenationIsSeeded := by
  intro seed a b s
  rw [← crc32c_append]
  rfl

/-- Settles O2: the outer loop by its last byte, the inner loop as an iterate. -/
theorem crcFollowsBitwisePseudocode : Obligations.CrcFollowsBitwisePseudocode :=
  ⟨fun _ _ _ => rfl, crc32c_nil,
    fun seed data b => (crc32c_concat seed data b).trans (congrArg (~~~ ·) (crcByte_eq_iterate _ b)),
    by decide +kernel⟩

/-- Settles O3, by the three ranges of digits. -/
theorem hexDigitValueByRange : Obligations.HexDigitValueByRange :=
  fun ch _ => ⟨hex2nibble ch, rfl, hex2nibble_ranges ch⟩

/-- Settles O7: the digits of nibbles 1 and 0. -/
theorem pairEncodeHighNibbleFirst : Obligations.PairEncodeHighNibbleFirst := by
  refine fun b s => ⟨_, _, rfl, ?_, ?_⟩
  · have hhigh : b.toNat / 16 = b.toNat / 16 ^ 1 % 16 := by omega
    rw [hhigh]
    exact hexchar_extractLsb' b 1
  · have hlow : b.toNat % 16 = b.toNat / 16 ^ 0 % 16 := by omega
    rw [hlow]
    exact hexchar_extractLsb' b 0

/-- Settles O8, by which of the two characters is a digit. -/
theorem pairDecodeOnAnyCharacters : Obligations.PairDecodeOnAnyCharacters :=
  fun hi lo _ => ⟨pairDecode hi lo, rfl, rfl, pairDecode_cases hi lo⟩

end Sys2Proof.Machine

/-! The statements of the frame receiver (spec/41_frame_rx.md): the receive step byte by byte through the header (R131 to
R135), the payload (R136 to R138) and the trailer (R139 to R141), the states that take no byte (R142), and the whole frames
that are answered with a NACK (R134, R141, R191). -/

namespace Sys2Proof.Machine

/-! ### Responses and error entry as updates of the state -/

/-- A response appends its events to the transmit log and changes nothing else (R174). -/
theorem respond_eq (k : Kind) (a : U32) (p : List Byte) (s : State) :
    respond k a p s = { s with tx := s.tx ++ sent k a p s.respMode } :=
  congrArg (fun tx => { s with tx := tx }) (List.append_assoc _ _ _)

/-- Error entry sends its NACK and goes to AWAIT_SOF (R270). -/
theorem errorEntry_eq (e : EngineError) (s : State) :
    errorEntry e s =
      { s with tx := s.tx ++ sent .nack 0#32 (errorReason e) s.respMode, fsm := .awaitSof } := by
  rw [errorEntry, respond_eq]
  rfl

/-- The framing error sends its NACK only under NACK_ON_GARBLED (R134). -/
theorem garbledHeader_eq (s : State) :
    garbledHeader s = { s with
      tx := if s.params.nackOnGarbled then s.tx ++ sent .nack 0#32 reasonGarbled s.respMode else s.tx
      fsm := .awaitSof } := by
  unfold garbledHeader
  split
  · exact errorEntry_eq .garbled s
  · rfl

/-! ### One byte, by STATE -/

/-- With nothing queued, RX_BYTE is the receive step on its own byte (R54, R130). -/
theorem exec_rxByte_of_empty (b : Byte) {s : State} (ht : takesByte s = true) (hrx : s.rx = []) :
    exec (.rxByte b) s = .next (rxRule b s) :=
  congrArg Host.Outcome.next (receive_of_empty b s hrx ht)

theorem exec_rxByte_awaitSof (b : Byte) {s : State} (hf : s.fsm = .awaitSof) (hrx : s.rx = []) :
    exec (.rxByte b) s = .next (rxAwaitSof b s) := by
  rw [exec_rxByte_of_empty b (by simp [takesByte, hf]) hrx]
  simp only [rxRule, hf]

theorem exec_rxByte_readHeader (b : Byte) {s : State} (hf : s.fsm = .readHeader) (hrx : s.rx = []) :
    exec (.rxByte b) s = .next (rxHeader b s) := by
  rw [exec_rxByte_of_empty b (by simp [takesByte, hf]) hrx]
  simp only [rxRule, hf]

theorem exec_rxByte_readPayload_bin (b : Byte) {s : State} (hf : s.fsm = .readPayload) (hm : s.reqMode = .bin)
    (hrx : s.rx = []) : exec (.rxByte b) s = .next (rxPayloadBin b s) := by
  rw [exec_rxByte_of_empty b (by simp [takesByte, hf]) hrx]
  simp only [rxRule, hf, hm]

theorem exec_rxByte_readPayload_hex (b : Byte) {s : State} (hf : s.fsm = .readPayload) (hm : s.reqMode = .hex)
    (hrx : s.rx = []) : exec (.rxByte b) s = .next (rxPayloadHex b s) := by
  rw [exec_rxByte_of_empty b (by simp [takesByte, hf]) hrx]
  simp only [rxRule, hf, hm]

theorem exec_rxByte_readCrc (b : Byte) {s : State} (hf : s.fsm = .readCrc) (hrx : s.rx = []) :
    exec (.rxByte b) s = .next (rxTrailer b s) := by
  rw [exec_rxByte_of_empty b (by simp [takesByte, hf]) hrx]
  simp only [rxRule, hf]

/-- In DISPATCH_WAIT and EXITED no byte is taken (R142). -/
theorem takesByte_of_waiting {s : State} (h : s.fsm = .dispatchWait ∨ s.fsm = .exited) : takesByte s = false := by
  obtain h | h := h <;> rw [takesByte, h]

/-! ### The header -/

/-- The structural check, written out (R133). -/
theorem headerOk_iff (hdr : Vector Byte 20) :
    headerOk hdr = true ↔ hdr[1] = 0x2C#8 ∧ hdr[10] = 0x2C#8 ∧ (hdr[19] = 0x23#8 ∨ hdr[19] = 0x25#8) := by
  simp only [headerOk, Bool.and_eq_true, Bool.or_eq_true, decide_eq_true_eq, and_assoc]
  rfl

/-- The three ways to fail the structural check (R133). -/
theorem headerOk_eq_false_iff (hdr : Vector Byte 20) :
    headerOk hdr = false ↔ hdr[1] ≠ 0x2C#8 ∨ hdr[10] ≠ 0x2C#8 ∨ (hdr[19] ≠ 0x23#8 ∧ hdr[19] ≠ 0x25#8) := by
  rw [← Bool.not_eq_true, headerOk_iff]
  tauto

/-- A header byte before the 20th is only stored (R132). -/
theorem rxHeader_of_lt (b : Byte) {s : State} (h : s.hidx < 19) : rxHeader b s = storeHeader b s :=
  if_neg (by simp [Config.hdrLen]; omega)

/-- The header with its 20th byte in place, before the structural check (R132). -/
def withTwentiethByte (b : Byte) (s : State) : State :=
  { s with hdr := s.hdr.setIfInBounds 19 b, hidx := 20 }

/-- The 20th byte is stored and the header is checked (R132, R133). -/
theorem rxHeader_of_eq (b : Byte) {s : State} (h : s.hidx = 19) :
    rxHeader b s = checkHeader (withTwentiethByte b s) := by
  have hstore : storeHeader b s = withTwentiethByte b s := by
    rw [storeHeader, h, withTwentiethByte]
  rw [rxHeader, hstore]
  exact if_pos rfl

/-- A header that passes the structural check sets the registers of the request (R133, R135). -/
theorem exec_rxByte_accepts (b : Byte) {s : State} (hf : s.fsm = .readHeader) (hrx : s.rx = []) (hi : s.hidx = 19)
    (h1 : s.hdr[1] = 0x2C#8) (h10 : s.hdr[10] = 0x2C#8) (hb : b = 0x23#8 ∨ b = 0x25#8) :
    exec (.rxByte b) s = .next (acceptHeader (withTwentiethByte b s)) := by
  have hok : headerOk (withTwentiethByte b s).hdr = true := by
    simpa [headerOk_iff, withTwentiethByte, h1, h10] using hb
  rw [exec_rxByte_readHeader b hf hrx, rxHeader_of_eq b hi, checkHeader, if_pos hok]

/-- The 20th byte is the delimiter: it selects the mode (R135). -/
theorem headerMode_setIfInBounds (hdr : Vector Byte 20) (b : Byte) :
    headerMode (hdr.setIfInBounds 19 b) = if b = 0x23#8 then .hex else .bin := by
  simp [headerMode, Config.delimHex]

theorem headerCmd_setIfInBounds (hdr : Vector Byte 20) (b : Byte) :
    headerCmd (hdr.setIfInBounds 19 b) = hdr[0] := by
  simp [headerCmd]

/-! ### The payload -/

/-- The end of the payload opens the trailer (R138). -/
theorem payloadDone_eq (s : State) :
    payloadDone s = { s with
      tidx := if s.pcnt = s.reqLen.toNat then 0 else s.tidx
      fsm := if s.pcnt = s.reqLen.toNat then .readCrc else s.fsm } := by
  unfold payloadDone
  split <;> rfl

/-! ### The trailer -/

/-- A trailer character before the 8th is only stored (R139). -/
theorem rxTrailer_of_lt (b : Byte) {s : State} (h : s.tidx < 7) : rxTrailer b s = storeTrailer b s :=
  if_neg (by simp [Config.trailerLen]; omega)

/-- The 8th trailer character is stored and the frame is decided from AWAIT_SOF (R139). -/
theorem rxTrailer_of_eq (b : Byte) {s : State} (h : s.tidx = 7) :
    rxTrailer b s =
      frameDecision { s with trl := s.trl.setIfInBounds 7 b, tidx := 8, fsm := .awaitSof } := by
  have hstore : storeTrailer b s = { s with trl := s.trl.setIfInBounds 7 b, tidx := 8 } := by
    rw [storeTrailer, h]
  rw [rxTrailer, hstore]
  exact if_pos rfl

/-- The data sequencer: order, then capacity, then the chunk is stored and acknowledged (R191). -/
theorem dataSequencer_eq (s : State) :
    dataSequencer s =
      if s.reqArg0.toNat ≠ s.dataExpected then
        { s with tx := s.tx ++ sent .nack 0#32 reasonMisordering s.respMode, fsm := .awaitSof }
      else if s.params.destSize < s.dataExpected + s.reqLen.toNat then
        { s with tx := s.tx ++ sent .nack 0#32 reasonTooMuch s.respMode, fsm := .awaitSof }
      else
        { s with
          dest := Memory.writeBytes s.dest s.dataExpected (Memory.readBytes s.pbuf 0 s.reqLen.toNat)
          dataExpected := s.dataExpected + s.reqLen.toNat
          tx := s.tx ++ sent .ack 0#32 [] s.respMode
          fsm := .awaitSof } := by
  rw [dataSequencer, errorEntry_eq, errorEntry_eq, acceptChunk, respond_eq]
  rfl

/-- What a request that goes to the dispatcher leaves (R192, R195). -/
theorem dispatchRequest_restartTransfer (s : State) :
    dispatchRequest (restartTransfer s) = { s with
      dataExpected := if s.params.cmdXferStart = some s.reqCmd then 0 else s.dataExpected
      pending := some ⟨s.reqCmd, s.reqArg0, s.reqLen, Memory.readBytes s.pbuf 0 s.reqLen.toNat, s.reqMode⟩
      fsm := .dispatchWait } := by
  rw [restartTransfer_eq]
  rfl

/-- The decision of a frame, in the order of its checks (R139 to R141, R190). -/
theorem frameDecision_eq (s : State) :
    frameDecision s =
      if atohex s.trl.toList ≠ s.crcAcc then errorEntry .crc s
      else if s.params.payloadMax < s.reqLen.toNat then errorEntry .oversize s
      else if s.params.cmdData = some s.reqCmd then dataSequencer s
      else dispatchRequest (restartTransfer s) := by
  rw [ite_not]
  rfl

/-! ### The statements on one byte -/

/-- Settles O14, by whether the byte is the SOF. -/
theorem sofStartsAHeader : Obligations.SofStartsAHeader := by
  intro b s hf hrx
  rw [exec_rxByte_awaitSof b hf hrx]
  rfl

/-- Settles O15: the index stays below 20. -/
theorem headerByteIsStored : Obligations.HeaderByteIsStored := by
  intro b s hf hrx hi
  rw [exec_rxByte_readHeader b hf hrx, rxHeader_of_lt b hi]
  rfl

/-- Settles O16: the header passes the check, and its registers are read from HDR with the delimiter in place. -/
theorem twentiethByteAcceptsHeader : Obligations.TwentiethByteAcceptsHeader := by
  intro b s hf hrx hi h1 h10 hb
  rw [exec_rxByte_accepts b hf hrx hi h1 h10 hb]
  simp only [acceptHeader, withTwentiethByte, headerCmd_setIfInBounds, headerMode_setIfInBounds]
  rfl

/-- Settles O17: the header with its 20th byte fails the check. -/
theorem twentiethByteOfGarbledHeader : Obligations.TwentiethByteOfGarbledHeader := by
  intro b s hf hrx hi hbad
  have hfail : headerOk (withTwentiethByte b s).hdr = false := by
    simpa [headerOk_eq_false_iff, withTwentiethByte] using hbad
  rw [exec_rxByte_readHeader b hf hrx, rxHeader_of_eq b hi, checkHeader, hfail, garbledHeader_eq]
  rfl

/-- Settles O18: a delimiter row is RX_BYTE of its byte, which accepts the header in that byte's mode. -/
theorem delimiterSelectsTheMode : Obligations.DelimiterSelectsTheMode := by
  intro s hf hrx hi h1 h10
  refine ⟨_, _, exec_rxByte_accepts 0x23#8 hf hrx hi h1 h10 (.inl rfl),
    exec_rxByte_accepts 0x25#8 hf hrx hi h1 h10 (.inr rfl), ?_⟩
  simp [acceptHeader, withTwentiethByte, headerCmd_setIfInBounds, headerMode_setIfInBounds, hrx, sameSurroundings]

/-- Settles O19: the byte is folded and stored, and then the count says whether it was the last. -/
theorem binaryPayloadByte : Obligations.BinaryPayloadByte := by
  intro b s hf hm hrx last
  rw [exec_rxByte_readPayload_bin b hf hm hrx, rxPayloadBin, payloadDone_eq, storePayload_fsm, foldCrc_fsm, hf]
  rfl

/-- Settles O20, by PHASE: the first character of a pair is held, the second completes a byte. -/
theorem hexPayloadCharacter : Obligations.HexPayloadCharacter := by
  intro b s hf hm hrx
  rw [exec_rxByte_readPayload_hex b hf hm hrx, rxPayloadHex]
  constructor
  · intro hp
    rw [if_pos hp]
    rfl
  · intro hp last
    have hphase : s.phase ≠ 0 := by simp [hp]
    rw [if_neg hphase, payloadDone_eq, pairDone_fsm, storePayload_fsm, foldCrc_fsm, hf]
    rfl

/-- Settles O21: the index stays below 8. -/
theorem trailerCharacterIsStored : Obligations.TrailerCharacterIsStored := by
  intro b s hf hrx hi
  rw [exec_rxByte_readCrc b hf hrx, rxTrailer_of_lt b hi]
  rfl

/-- Settles O22: the frame's decision in the order of its checks, each branch as an update of the state. -/
theorem eighthTrailerCharacterDecides : Obligations.EighthTrailerCharacterDecides := by
  intro b s hf hrx hi trl payload u
  rw [exec_rxByte_readCrc b hf hrx, rxTrailer_of_eq b hi, frameDecision_eq, dataSequencer_eq,
    dispatchRequest_restartTransfer, errorEntry_eq, errorEntry_eq]
  rfl

/-- Settles O23: every row feeds its bytes, and a byte that is not taken stays queued. -/
theorem waitingEngineTakesNoByte : Obligations.WaitingEngineTakesNoByte := by
  intro b f hdr s hwait
  have hfeed (bs : List Byte) : feed bs s = .next { s with rx := s.rx ++ bs } := by
    rw [feed_eq_deliver, deliver_of_waiting bs s (takesByte_of_waiting hwait)]
  obtain ⟨-, hrows, -⟩ := everyByteSequenceIsTaken
  obtain ⟨hdata, hxfer, hcont, hdispatch, hgarbled, hhex, hbin⟩ := hrows f hdr s
  exact ⟨hfeed [b], hhex.trans (hfeed _), hbin.trans (hfeed _), hgarbled.trans (hfeed _), hdata.trans (hfeed _),
    hxfer.trans (hfeed _), hcont.trans (hfeed _), hdispatch.trans (hfeed _)⟩

/-! ### The statements on whole frames -/

/-- Error entry leaves the registers of a frame as its delivery left them (R270). -/
theorem errorEntry_frameRegisters_frameRead {f : Frame} {s : State} (e : EngineError) (hf : f.wf = true)
    (hw : Memory.wf s.pbuf = true) : frameRead f s (errorEntry e (frameRegisters f s)) := by
  obtain ⟨hl, -⟩ := (Frame_wf_iff f).mp hf
  exact frameRead_of_registers hl hw rfl rfl rfl rfl rfl rfl rfl rfl rfl rfl rfl rfl rfl rfl

/-- The error that refuses a data frame, by the first check it fails: the engine's buffer (R141), the offset, and then the
destination (R191). -/
def dataFrameError (f : Frame) (s : State) : EngineError :=
  if s.params.payloadMax < frameLen f then .oversize
  else if (atohex f.arg0.toList).toNat ≠ s.dataExpected then .order else .capacity

theorem errorReason_dataFrameError (f : Frame) (s : State) :
    errorReason (dataFrameError f s) =
      if s.params.payloadMax < frameLen f then reasonTooMuch
      else if (atohex f.arg0.toList).toNat ≠ s.dataExpected then reasonMisordering else reasonTooMuch := by
  rw [dataFrameError, apply_ite errorReason, apply_ite errorReason]
  rfl

/-- A well-formed data frame that fits PBUF comes to the data sequencer (R190). -/
theorem deliver_fitting_data_frame {f : Frame} {s : State} (hi : idle s) (hf : f.wf = true)
    (hcmd : s.params.cmdData = some f.cmd) (hle : frameLen f ≤ s.params.payloadMax) :
    deliver (frameBytes f) s = dataSequencer (frameRegisters f s) :=
  (deliver_fitting_frame f s hi hf hle).trans (if_pos hcmd)

/-- A data frame that fails one of the three checks ends in error entry (R141, R191). -/
theorem deliver_refused_data_frame {f : Frame} {s : State} (hi : idle s) (hf : f.wf = true)
    (hcmd : s.params.cmdData = some f.cmd)
    (hbad : s.params.payloadMax < frameLen f ∨ (atohex f.arg0.toList).toNat ≠ s.dataExpected ∨
      s.params.destSize < s.dataExpected + frameLen f) :
    deliver (frameBytes f) s = errorEntry (dataFrameError f s) (frameRegisters f s) := by
  unfold dataFrameError
  split_ifs with hsize horder
  · exact deliver_oversize_frame f s hi hf hsize
  · exact (deliver_fitting_data_frame hi hf hcmd (Nat.le_of_not_lt hsize)).trans (if_pos horder)
  · have hcap : s.params.destSize < s.dataExpected + frameLen f := by tauto
    rw [deliver_fitting_data_frame hi hf hcmd (Nat.le_of_not_lt hsize)]
    exact (if_neg horder).trans (if_pos hcap)

/-- Settles O28: error entry with the reason of the first check that fails, after the frame's registers. -/
theorem refusedDataFrameChangesNoData : Obligations.RefusedDataFrameChangesNoData := by
  intro f s hi hf hcmd hw hbad
  have ht : exec (.reqData f) s = .next (errorEntry (dataFrameError f s) (frameRegisters f s)) :=
    congrArg Host.Outcome.next (deliver_refused_data_frame hi hf hcmd hbad)
  refine ⟨_, ht, rfl, rfl, rfl, hi.2, rfl, ?_, errorEntry_frameRegisters_frameRead _ hf hw, ?_⟩
  · rw [errorEntry_eq, errorReason_dataFrameError]
    rfl
  · exact ⟨rfl, rfl, rfl, rfl, rfl, rfl⟩

/-- Settles O32: the whole header is read, and then the framing error ends the frame. -/
theorem garbledHeaderIsDiscarded : Obligations.GarbledHeaderIsDiscarded := by
  intro hdr s ⟨hf, hrx⟩ hbad
  have hdeliver := deliver_garbled hdr s hf hrx ((headerOk_eq_false_iff hdr).mpr hbad)
  rw [garbledHeader_eq, ← hf] at hdeliver
  exact congrArg Host.Outcome.next hdeliver

end Sys2Proof.Machine

/-! The statements of the frame transmitter (spec/42_frame_tx.md): the layout and the length of an encoded frame (R171 to R173,
R75), what a response row sends and which payloads none carries (R174, R175, R193), the reason strings (R177), and the round
trip of an encoded request through the receiver (R192). -/

namespace Sys2Proof.Machine

/-! ### Payloads and the length field -/

theorem payloadFits_iff (p : List Byte) : payloadFits p = true ↔ p.length < 2 ^ 32 := decide_eq_true_iff

theorem payloadFits_eq_false_iff (p : List Byte) : payloadFits p = false ↔ 2 ^ 32 ≤ p.length :=
  decide_eq_false_iff_not.trans Nat.not_lt

/-! ### Response rows -/

/-- A response row in RESP_MODE is the Respond step, in every state but EXITED (R174; log entry 10). -/
theorem sendResponse_respMode (k : Kind) (a : U32) {p : List Byte} {s : State} (hp : p.length < 2 ^ 32)
    (hf : s.fsm ≠ .exited) : sendResponse k a p s.respMode s = .next (respond k a p s) := by
  rw [sendResponse, if_neg (by rw [payloadFits_eq_false_iff]; omega), if_neg hf, if_pos rfl]

/-- A response row is refused for its payload before anything else is asked (log entry 10). -/
theorem sendResponse_of_long (k : Kind) (a : U32) {p : List Byte} (m : Mode) (s : State) (hp : 2 ^ 32 ≤ p.length) :
    sendResponse k a p m s = .refused .payloadTooLong :=
  if_pos ((payloadFits_eq_false_iff p).mpr hp)

/-! ### The layout of an encoded frame -/

theorem delimOf_eq (m : Mode) : delimOf m = if m = .hex then 0x23#8 else 0x25#8 := by cases m <;> rfl

theorem wirePayload_eq (p : List Byte) (m : Mode) :
    wirePayload p m = if m = .hex then p.flatMap pairEncode else p := by cases m <;> rfl

theorem wireLen_eq (n : Nat) (m : Mode) : wireLen n m = if m = .hex then 2 * n else n := by cases m <;> rfl

theorem exec_frameEncode (c : Byte) (a : U32) {p : List Byte} (m : Mode) (s : State) (hp : p.length < 2 ^ 32) :
    exec (.frameEncode c a p m) s = .next (returned (.bytes (frameEncode c a p m)) s) :=
  if_pos ((payloadFits_iff p).mpr hp)

/-! ### A frame that is dispatched -/

/-- The request record that a frame hands to the dispatcher (R192). -/
def requestOf (f : Frame) : Request :=
  ⟨f.cmd, atohex f.arg0.toList, atohex f.len.toList, framePayload f, f.mode⟩

/-- An encoded frame carries what it was made from (R109, R171, R172). -/
theorem requestOf_encodedFrame (c : Byte) (a : U32) (p : List Byte) (m : Mode) :
    requestOf (encodedFrame c a p m) = ⟨c, a, BitVec.ofNat 32 p.length, p, m⟩ := by
  rw [requestOf, framePayload_encodedFrame]
  simp [encodedFrame]

/-- A well-formed frame that fits PBUF and is no data frame goes to the dispatcher (R190, R192, R195). -/
theorem deliver_dispatched_frame {f : Frame} {s : State} (hi : idle s) (hf : f.wf = true) (hw : Memory.wf s.pbuf = true)
    (hdata : s.params.cmdData ≠ some f.cmd) (hle : frameLen f ≤ s.params.payloadMax) :
    deliver (frameBytes f) s = { frameRegisters f s with
      dataExpected := if s.params.cmdXferStart = some f.cmd then 0 else s.dataExpected
      pending := some (requestOf f)
      fsm := .dispatchWait } := by
  obtain ⟨hl, -⟩ := f.wf_iff.mp hf
  have hroute : routeFrame (frameRegisters f s) = dispatchRequest (restartTransfer (frameRegisters f s)) :=
    if_neg hdata
  rw [deliver_fitting_frame f s hi hf hle, hroute, dispatchRequest_restartTransfer, requestOf,
    ← requestPayload_frameRegisters f s hl hw hle]
  rfl

/-! ### The statements -/

/-- Settles O26: the encoder's frame is well formed and fits, so its delivery dispatches the request it carries. -/
theorem encodedRequestIsDispatchedWithItsFields : Obligations.EncodedRequestIsDispatchedWithItsFields := by
  intro c a p m s hi hw hp hle hdata hstart _
  have hlen : frameLen (encodedFrame c a p m) ≤ s.params.payloadMax := (frameLen_encodedFrame c a p m hp).trans_le hle
  have hdeliver := deliver_dispatched_frame hi (encodedFrame_wf c a p m hp) hw hdata hlen
  have hstart' : s.params.cmdXferStart ≠ some (encodedFrame c a p m).cmd := hstart
  rw [frameBytes_encodedFrame, requestOf_encodedFrame, if_neg hstart'] at hdeliver
  refine ⟨_, (feed_eq_deliver _ s).trans (congrArg Host.Outcome.next hdeliver), ?_⟩
  exact ⟨rfl, rfl, rfl, rfl, rfl, rfl, hi.2, rfl, rfl, rfl, rfl, rfl, rfl⟩

/-- Settles O9: header and wire bytes are those of the encoder. -/
theorem frameEncodeLayout : Obligations.FrameEncodeLayout := by
  intro c a p m s hp
  refine ⟨encodeHeader c a p m, wirePayload p m, ?_, encodeHeader_length c a p m, wirePayload_eq p m, ?_,
    exec_frameEncode c a m s hp, ?_⟩
  · rw [← delimOf_eq]
    rfl
  · rw [wirePayload_length, wireLen_eq]
  · rw [frameEncode_length, wireLen_eq, add_ite]

/-- Settles O10: each of the four asks the payload's length first. -/
theorem payloadBeyondLengthFieldIsRefused : Obligations.PayloadBeyondLengthFieldIsRefused := by
  intro c k a p m s hp
  have hlong : payloadFits p = false := (payloadFits_eq_false_iff p).mpr hp
  exact ⟨if_neg (Bool.eq_false_iff.mp hlong), if_pos hlong, sendResponse_of_long .ack a m s hp,
    sendResponse_of_long .nack a m s hp⟩

/-- Settles O11: both rows are the Respond step. -/
theorem responseFrameIsSentWithOneFlush : Obligations.ResponseFrameIsSentWithOneFlush :=
  fun a _ _ hp hf => ⟨sendResponse_respMode .ack a hp hf, sendResponse_respMode .nack a hp hf⟩

/-- Settles O13: closed strings, evaluated. -/
theorem reasonStringsAreAscii : Obligations.ReasonStringsAreAscii := by
  unfold Obligations.ReasonStringsAreAscii
  decide

end Sys2Proof.Machine

/-! The statements of the data sequencer and of dispatch (spec/43_dispatch_data.md): a data frame accepted and the ordering of
chunks (R191, R197), a frame handed to the dispatcher (R192, R195), the dispatcher's response and the monitor exit (R194, R196),
and the response rows that stop (R176, R196). -/

namespace Sys2Proof.Machine

/-! ### A data frame in order -/

/-- An accepted chunk as an update of the state (R191). -/
theorem acceptChunk_eq (s : State) :
    acceptChunk s = { s with
      dest := Memory.writeBytes s.dest s.dataExpected (requestPayload s)
      dataExpected := s.dataExpected + s.reqLen.toNat
      tx := s.tx ++ sent .ack 0#32 [] s.respMode
      fsm := .awaitSof } := by
  rw [acceptChunk, respond_eq]
  rfl

/-- A well-formed data frame at the expected offset that fits both buffers is accepted (R191). -/
theorem exec_reqData_accepted {f : Frame} {s : State} (hi : idle s) (hf : f.wf = true)
    (hcmd : s.params.cmdData = some f.cmd) (hle : frameLen f ≤ s.params.payloadMax)
    (horder : (atohex f.arg0.toList).toNat = s.dataExpected) (hcap : s.dataExpected + frameLen f ≤ s.params.destSize) :
    exec (.reqData f) s = .next (acceptChunk (frameRegisters f s)) := by
  have haccept : dataSequencer (frameRegisters f s) = acceptChunk (frameRegisters f s) :=
    (if_neg (not_not.mpr horder)).trans (if_neg (Nat.not_lt.mpr hcap))
  exact congrArg Host.Outcome.next ((deliver_fitting_data_frame hi hf hcmd hle).trans haccept)

/-- A well-formed data frame at another offset that fits PBUF is misordered (R191). -/
theorem exec_reqData_misordered {f : Frame} {s : State} (hi : idle s) (hf : f.wf = true)
    (hcmd : s.params.cmdData = some f.cmd) (hle : frameLen f ≤ s.params.payloadMax)
    (horder : (atohex f.arg0.toList).toNat ≠ s.dataExpected) :
    exec (.reqData f) s = .next (errorEntry .order (frameRegisters f s)) :=
  congrArg Host.Outcome.next ((deliver_fitting_data_frame hi hf hcmd hle).trans (if_pos horder))

/-- Acceptance moves the expected offset past the frame's payload (R191). -/
theorem acceptChunk_frameRegisters_dataExpected (f : Frame) (s : State) :
    (acceptChunk (frameRegisters f s)).dataExpected = s.dataExpected + frameLen f := rfl

/-- Acceptance leaves the engine idle, for the next frame (R191). -/
theorem idle_acceptChunk_frameRegisters (f : Frame) {s : State} (hi : idle s) :
    idle (acceptChunk (frameRegisters f s)) := ⟨rfl, hi.2⟩

/-- The ACK of an accepted chunk is sent in the frame's own mode (R176, R191). -/
theorem acceptChunk_frameRegisters_tx (f : Frame) (s : State) :
    (acceptChunk (frameRegisters f s)).tx = s.tx ++ sent .ack 0#32 [] f.mode := by
  rw [acceptChunk_eq]
  rfl

/-- What goes to DEST is the frame's decoded payload, at the expected offset (R191). -/
theorem acceptChunk_frameRegisters_dest {f : Frame} {s : State} (hf : f.wf = true) (hw : Memory.wf s.pbuf = true)
    (hle : frameLen f ≤ s.params.payloadMax) :
    (acceptChunk (frameRegisters f s)).dest = Memory.writeBytes s.dest s.dataExpected (framePayload f) := by
  obtain ⟨hl, -⟩ := (Frame_wf_iff f).mp hf
  rw [acceptChunk_eq, requestPayload_frameRegisters f s hl hw hle]
  rfl

/-- Acceptance leaves the registers of a frame as its delivery left them. -/
theorem acceptChunk_frameRegisters_frameRead {f : Frame} {s : State} (hf : f.wf = true) (hw : Memory.wf s.pbuf = true) :
    frameRead f s (acceptChunk (frameRegisters f s)) := by
  obtain ⟨hl, -⟩ := (Frame_wf_iff f).mp hf
  exact frameRead_of_registers hl hw rfl rfl rfl rfl rfl rfl rfl rfl rfl rfl rfl rfl rfl rfl

/-- Settles O27: the frame is accepted, and DEST is read after a run of writes of its payload. -/
theorem dataFrameInOrderIsStored : Obligations.DataFrameInOrderIsStored := by
  intro f s hi hf hcmd hw hdest hle horder hcap
  obtain ⟨hl, -⟩ := (Frame_wf_iff f).mp hf
  have hlen := framePayload_length f hl
  refine ⟨_, exec_reqData_accepted hi hf hcmd hle horder hcap, rfl, rfl, acceptChunk_frameRegisters_tx f s, hi.2, rfl,
    acceptChunk_frameRegisters_frameRead hf hw, ⟨rfl, rfl, rfl, rfl, rfl, rfl⟩, ?_, ?_⟩
  · intro i hlt
    rw [acceptChunk_frameRegisters_dest hf hw hle, Memory.read_writeBytes hdest, if_pos (by omega), Nat.add_sub_cancel_left]
    rfl
  · intro a hout
    rw [acceptChunk_frameRegisters_dest hf hw hle, Memory.read_writeBytes hdest, if_neg (by omega)]

/-- Settles O33: each accepted chunk leaves an idle engine that expects the next offset, and only that one. -/
theorem chunkOffsetsMustMatchExactly : Obligations.ChunkOffsetsMustMatchExactly := by
  intro f g h k s hi _ _ hzero hmax hdest hchunks hf0 hg64 hh64 hk128
  simp only [List.forall_mem_cons, List.not_mem_nil, false_imp_iff, implies_true, and_true] at hchunks
  obtain ⟨⟨hf, hfcmd, hflen⟩, ⟨hg, hgcmd, hglen⟩, ⟨hh, hhcmd, hhlen⟩, ⟨hk, hkcmd, hklen⟩⟩ := hchunks
  let t1 := acceptChunk (frameRegisters f s)
  let t2 := acceptChunk (frameRegisters g t1)
  have hi1 : idle t1 := idle_acceptChunk_frameRegisters f hi
  have hi2 : idle t2 := idle_acceptChunk_frameRegisters g hi1
  have h1 : t1.dataExpected = 64 := (acceptChunk_frameRegisters_dataExpected f s).trans (by omega)
  have h2 : t2.dataExpected = 128 := (acceptChunk_frameRegisters_dataExpected g t1).trans (by omega)
  have hstep1 : exec (.reqData f) s = .next t1 :=
    exec_reqData_accepted hi hf hfcmd (hflen.trans_le hmax) (by rw [hf0, hzero]; rfl) (by omega)
  have hstep2 : exec (.reqData g) t1 = .next t2 :=
    exec_reqData_accepted hi1 hg hgcmd (hglen.trans_le hmax) (by rw [hg64, h1]; rfl) (by rw [h1, hglen]; exact hdest)
  have hstep3 : exec (.reqData h) t2 = .next (errorEntry .order (frameRegisters h t2)) :=
    exec_reqData_misordered hi2 hh hhcmd (hhlen.trans_le hmax) (by rw [hh64, h2]; decide)
  have hstep4 : exec (.reqData k) t1 = .next (errorEntry .order (frameRegisters k t1)) :=
    exec_reqData_misordered hi1 hk hkcmd (hklen.trans_le hmax) (by rw [hk128, h1]; decide)
  refine ⟨t1, t2, _, _, hstep1, acceptChunk_frameRegisters_tx f s, hstep2, acceptChunk_frameRegisters_tx g t1,
    hstep3, ?_, h2, hstep4, ?_, h1⟩
  · rw [errorEntry_eq]
    rfl
  · rw [errorEntry_eq]
    rfl

/-! ### A frame that waits for the dispatcher -/

/-- The state in which a frame's request waits for the dispatcher (R192, R195). -/
def dispatchedFrame (f : Frame) (s : State) : State :=
  { frameRegisters f s with
    dataExpected := if s.params.cmdXferStart = some f.cmd then 0 else s.dataExpected
    pending := some (requestOf f)
    fsm := .dispatchWait }

theorem deliver_eq_dispatchedFrame {f : Frame} {s : State} (hi : idle s) (hf : f.wf = true) (hw : Memory.wf s.pbuf = true)
    (hdata : s.params.cmdData ≠ some f.cmd) (hle : frameLen f ≤ s.params.payloadMax) :
    deliver (frameBytes f) s = dispatchedFrame f s :=
  deliver_dispatched_frame hi hf hw hdata hle

/-- All that the dispatch of a frame does: only a transfer start moves DATA_EXPECTED, and nothing is sent or stored
(R192, R195). -/
theorem dispatchedFrame_effect {f : Frame} {s : State} (hi : idle s) (hf : f.wf = true) (hw : Memory.wf s.pbuf = true) :
    let t := dispatchedFrame f s
    t.fsm = .dispatchWait ∧ t.dataExpected = (if s.params.cmdXferStart = some f.cmd then 0 else s.dataExpected) ∧
    t.dest = s.dest ∧ t.tx = s.tx ∧ t.rx = [] ∧ t.pending = some (requestOf f) ∧ frameRead f s t ∧
    sameSurroundings s t := by
  obtain ⟨hl, -⟩ := (Frame_wf_iff f).mp hf
  have hread : frameRead f s (dispatchedFrame f s) :=
    frameRead_of_registers hl hw rfl rfl rfl rfl rfl rfl rfl rfl rfl rfl rfl rfl rfl rfl
  exact ⟨rfl, rfl, rfl, rfl, hi.2, rfl, hread, ⟨rfl, rfl, rfl, rfl, rfl, rfl⟩⟩

/-- Settles O29: the dispatched frame is a transfer start, so DATA_EXPECTED is 0. -/
theorem transferStartRestartsTheOffset : Obligations.TransferStartRestartsTheOffset := by
  intro f s hi hf hw hdata hstart hle
  have heffect := dispatchedFrame_effect hi hf hw
  simp only [if_pos hstart] at heffect
  exact ⟨_, congrArg Host.Outcome.next (deliver_eq_dispatchedFrame hi hf hw hdata hle), heffect⟩

/-- Settles O30: the dispatched frame is no transfer start, so DATA_EXPECTED stays. -/
theorem otherFrameIsDispatched : Obligations.OtherFrameIsDispatched := by
  intro f s hi hf hw hdata hstart hle
  have heffect := dispatchedFrame_effect hi hf hw
  simp only [if_neg hstart] at heffect
  exact ⟨_, congrArg Host.Outcome.next (deliver_eq_dispatchedFrame hi hf hw hdata hle), heffect⟩

/-! ### The dispatcher's response -/

theorem continues_of_pending {s : State} {q : Request} (hq : s.pending = some q) :
    continues s = decide (s.params.cmdCont = some q.cmd) := by
  rw [continues, hq]

/-- The response to a pending request as an update of the state (R194, R196). -/
theorem dispatcherResponds_eq (k : Kind) (a : U32) (p : List Byte) {s : State} {q : Request}
    (hq : s.pending = some q) :
    dispatcherResponds k a p s = { s with
      tx := s.tx ++ sent k a p s.respMode
      pending := none
      fsm := if s.params.cmdCont = some q.cmd then .exited else .awaitSof } := by
  rw [dispatcherResponds, respond_eq, continues_of_pending hq]
  simp only [decide_eq_true_eq]
  rfl

/-- Settles O34: in DISPATCH_WAIT the response to the pending request, and elsewhere the fault. -/
theorem dispatchResponseIsSent : Obligations.DispatchResponseIsSent := by
  intro k a p s hp
  have hfits : ¬ payloadFits p = false := by rw [payloadFits_eq_false_iff]; omega
  constructor
  · intro q hf hq
    rw [← dispatcherResponds_eq k a p hq]
    exact (if_neg hfits).trans (if_pos hf)
  · intro hf
    exact (if_neg hfits).trans (if_neg hf)

/-- Settles O31: the dispatch, the response to the request it leaves pending, and a byte that then stays queued. -/
theorem continueExitsAfterItsResponse : Obligations.ContinueExitsAfterItsResponse := by
  intro f k a p b s hi hf hw hdata hstart hcont hle hp
  let t := dispatchedFrame f s
  let u : State := { t with tx := t.tx ++ sent k a p f.mode, pending := none, fsm := .exited }
  have heffect := dispatchedFrame_effect hi hf hw
  simp only [if_neg hstart] at heffect
  obtain ⟨hfsm, hoff, hdest, htx, hrx, hpending, hread, hsame⟩ := heffect
  have hresponse : exec (.dispatchResponse k a p) t = .next u := by
    obtain ⟨hsent, -⟩ := dispatchResponseIsSent k a p t hp
    have hexit : t.params.cmdCont = some (requestOf f).cmd := hcont
    rw [hsent (requestOf f) hfsm hpending, if_pos hexit]
    rfl
  have hbyte : exec (.rxByte b) u = .next { u with rx := [b] } := by
    have hqueue : receive b u = { u with rx := t.rx ++ [b] } := receive_of_waiting b u rfl
    rw [hrx] at hqueue
    exact congrArg Host.Outcome.next hqueue
  exact ⟨t, u, congrArg Host.Outcome.next (deliver_eq_dispatchedFrame hi hf hw hdata hle), hfsm, hoff, hdest, htx, hrx,
    hpending, hread, hsame, hresponse, rfl, hbyte⟩

/-! ### Response rows that stop -/

/-- In EXITED a response row stops, in either mode (R196; log entry 10). -/
theorem sendResponse_of_exited (k : Kind) (a : U32) {p : List Byte} (m : Mode) {s : State} (hp : p.length < 2 ^ 32)
    (hf : s.fsm = .exited) : sendResponse k a p m s = .fault .exited := by
  rw [sendResponse, if_neg (by rw [payloadFits_eq_false_iff]; omega), if_pos hf]

/-- Elsewhere a response row in another mode than RESP_MODE is refused (R176). -/
theorem sendResponse_of_other_mode (k : Kind) (a : U32) {p : List Byte} {m : Mode} {s : State} (hp : p.length < 2 ^ 32)
    (hf : s.fsm ≠ .exited) (hm : m ≠ s.respMode) : sendResponse k a p m s = .refused .notInResponseMode := by
  rw [sendResponse, if_neg (by rw [payloadFits_eq_false_iff]; omega), if_neg hf, if_neg hm]

/-- Settles O12: both rows are `sendResponse`. -/
theorem responseRowStopsWhereNoneIsSent : Obligations.ResponseRowStopsWhereNoneIsSent :=
  fun a _ _ m hp =>
    ⟨fun hf => ⟨sendResponse_of_exited .ack a m hp hf, sendResponse_of_exited .nack a m hp hf⟩,
     fun hf hm => ⟨sendResponse_of_other_mode .ack a hp hf hm, sendResponse_of_other_mode .nack a hp hf hm⟩⟩

end Sys2Proof.Machine

/-! The statements of the OTP tag scanner (spec/44_otp_tags.md): the fields of a record (R220), where the scan ends (R222 to
R225), and the value that the copy of a chain leaves in the caller's buffer (R226 to R231). -/

namespace Sys2Proof.Machine

/-! ### The fields of a record (R80, R220) -/

theorem recordCont_eq (raw : Vector Byte 8) : recordCont raw = decide (raw[7].toNat / 16 % 2 = 1) :=
  Nat.testBit_eq_decide_div_mod_eq

/-- The tag's ninth bit stands before REC[6]. -/
theorem recordTag_eq_append (bit : Fin 4) (raw : Vector Byte 8) :
    recordTag bit raw = raw[7].extractLsb' bit.val 1 ++ raw[6] := by
  rw [recordTag, BitVec.or_comm, BitVec.append_def, BitVec.shiftLeftZeroExtend_eq, BitVec.setWidth'_eq]

theorem recordTag_toNat (bit : Fin 4) (raw : Vector Byte 8) :
    (recordTag bit raw).toNat = raw[6].toNat + 256 * (raw[7].toNat / 2 ^ bit.val % 2) := by
  have hbit : (raw[7].extractLsb' bit.val 1).toNat = raw[7].toNat / 2 ^ bit.val % 2 := by
    rw [BitVec.extractLsb'_toNat, Nat.shiftRight_eq_div_pow, Nat.pow_one]
  rw [recordTag_eq_append, BitVec.toNat_append, ← Nat.shiftLeft_add_eq_or_of_lt raw[6].isLt, hbit, Nat.shiftLeft_eq]
  omega

theorem extractLsb'_congr {a b : Byte} {start len : Nat}
    (h : ∀ i, i < len → a.getLsbD (start + i) = b.getLsbD (start + i)) :
    a.extractLsb' start len = b.extractLsb' start len := by
  ext i hi
  simpa using h i hi

/-- Only the size, the cont bit and the tag's ninth bit of byte 7 count (I3). -/
theorem otpDecode_congr {x y : Vector Byte 8} {bit : Fin 4} (h6 : x[6] = y[6])
    (h7 : ∀ i, i < 8 → 4 ≤ i ∨ i = bit.val → x[7].getLsbD i = y[7].getLsbD i) :
    otpDecode bit x = otpDecode bit y := by
  have hsize : recordSize x = recordSize y :=
    congrArg BitVec.toNat (extractLsb'_congr fun i hi => h7 (5 + i) (by omega) (.inl (by omega)))
  have hcont : recordCont x = recordCont y := h7 4 (by omega) (.inl (by omega))
  have htag : recordTag bit x = recordTag bit y := by
    rw [recordTag, recordTag, h6,
      extractLsb'_congr fun i hi => h7 (bit.val + i) (by omega) (.inr (by omega))]
  simp only [otpDecode, recordValid, hsize, hcont, htag]

/-- Settles O37: each field by arithmetic, and from the bits of byte 7 that it is read from. -/
theorem otpDecodeFieldsByArithmetic : Obligations.OtpDecodeFieldsByArithmetic := by
  refine ⟨fun raw s => ⟨_, rfl, recordSize_eq raw, recordCont_eq raw, recordTag_toNat _ raw, ?_⟩,
    fun _ _ _ => otpDecode_congr⟩
  rw [← recordSize_eq]
  exact recordValid_iff raw

/-! ### The operations as updates of the state -/

theorem exec_otpGet {tag : U32} {base bufSize : Nat} {s : State} {st : Status} {mem : Memory}
    (h : otpGet tag base bufSize s = (st, mem)) :
    exec (.otpGet tag base bufSize) s = .next { s with caller := mem, returns := s.returns ++ [.status st] } :=
  congrArg (fun r => Host.Outcome.next (otsReturn r s)) h

theorem exec_otpGetValue {raw : Vector Byte 8} {offset base bufSize : Nat} {s : State} {st : Status} {mem : Memory}
    (h : otpGetValue raw offset base bufSize s = (st, mem)) :
    exec (.otpGetValue raw offset base bufSize) s =
      .next { s with caller := mem, returns := s.returns ++ [.status st] } :=
  congrArg (fun r => Host.Outcome.next (otsReturn r s)) h

/-! ### The scan -/

/-- A record inside the region is one of the records left. -/
theorem exists_recordsLeft_succ {off fuel : Nat} (hfuel : off + 8 * fuel = Config.tagEnd) (hoff : off < Config.tagEnd) :
    ∃ left, fuel = left + 1 ∧ off + 8 + 8 * left = Config.tagEnd := by
  cases fuel with
  | zero => omega
  | succ left => exact ⟨left, rfl, by omega⟩

/-- Wherever the scan comes by the rules, the records left from there decide its result. -/
theorem otpScan_of_scanReaches {s : State} {tag : U32} {off : Nat} {skip : Bool} (h : ScanReaches s tag off skip) :
    ∃ fuel, off + 8 * fuel = Config.tagEnd ∧
      otpScan s tag recordCount Config.tagStart false = otpScan s tag fuel off skip := by
  induction h with
  | start => exact ⟨recordCount, rfl, rfl⟩
  | invalid _ hoff hread hv ih =>
    obtain ⟨fuel, hfuel, heq⟩ := ih
    obtain ⟨left, rfl, hleft⟩ := exists_recordsLeft_succ hfuel hoff
    exact ⟨left, hleft, heq.trans (otpScan_invalid s tag left _ hoff hread hv)⟩
  | other _ hoff hread hv ht ih =>
    obtain ⟨fuel, hfuel, heq⟩ := ih
    obtain ⟨left, rfl, hleft⟩ := exists_recordsLeft_succ hfuel hoff
    exact ⟨left, hleft, heq.trans (otpScan_other s tag left _ hoff hread hv ht)⟩
  | skipped _ hoff hread ih =>
    obtain ⟨fuel, hfuel, heq⟩ := ih
    obtain ⟨left, rfl, hleft⟩ := exists_recordsLeft_succ hfuel hoff
    exact ⟨left, hleft, heq.trans (otpScan_skipped s tag left _ hoff hread)⟩

/-- Settles O39: what the scan answers where it comes to decides OTP_GET. -/
theorem otpGetFollowsTheScanRules : Obligations.OtpGetFollowsTheScanRules := by
  intro s tag base bufSize off skip h
  obtain ⟨fuel, hfuel, hscan⟩ := otpScan_of_scanReaches h
  refine ⟨fun raw hskip hoff hread hv ht => ?_, fun hoff => ?_, fun hoff hread => ?_⟩
  · obtain ⟨left, rfl, -⟩ := exists_recordsLeft_succ hfuel hoff
    rw [hskip, otpScan_found s tag left off hoff hread hv ht] at hscan
    exact exec_otpGet (by rw [otpGet, hscan])
  · rw [otpScan_end s tag fuel off skip hoff] at hscan
    exact exec_otpGet (by rw [otpGet, hscan])
  · obtain ⟨left, rfl, -⟩ := exists_recordsLeft_succ hfuel hoff
    rw [otpScan_unreadable s tag left off skip hoff hread] at hscan
    exact exec_otpGet (by rw [otpGet, hscan])

/-- What the scan finds carries the tag (R224). -/
theorem recordTag_of_otpScan_found {s : State} {tag : U32} {fuel off headOff : Nat} {skip : Bool} {head : Vector Byte 8}
    (h : otpScan s tag fuel off skip = .found head headOff) :
    (recordTag s.params.tagIdB7Bit head).setWidth 32 = tag := by
  induction fuel generalizing off skip with
  | zero => cases h
  | succ fuel ih =>
    by_cases hoff : off < Config.tagEnd
    · cases hread : otpRead s off with
      | none => rw [otpScan_unreadable s tag fuel off skip hoff hread] at h; cases h
      | some raw =>
        cases skip with
        | true => exact ih ((otpScan_skipped s tag fuel off hoff hread).symm.trans h)
        | false =>
          cases hv : recordValid raw with
          | false => exact ih ((otpScan_invalid s tag fuel off hoff hread hv).symm.trans h)
          | true =>
            by_cases ht : (recordTag s.params.tagIdB7Bit raw).setWidth 32 = tag
            · rw [otpScan_found s tag fuel off hoff hread hv ht] at h
              cases h
              exact ht
            · exact ih ((otpScan_other s tag fuel off hoff hread hv ht).symm.trans h)
    · rw [otpScan_end s tag (fuel + 1) off skip (Nat.not_lt.mp hoff)] at h
      cases h

/-- A tag has 9 bits, so the scan for a larger number finds no record (R222). -/
theorem otpScan_ne_found_of_wide {tag : U32} (htag : 0x1FF < tag.toNat) (s : State) (fuel off : Nat) (skip : Bool)
    (raw : Vector Byte 8) (headOff : Nat) : otpScan s tag fuel off skip ≠ .found raw headOff := by
  intro h
  have hlt := (recordTag s.params.tagIdB7Bit raw).isLt
  rw [← recordTag_of_otpScan_found h, BitVec.toNat_setWidth] at htag
  omega

/-- Settles O44: the scan ends absent or failed. -/
theorem wideTagNeverMatches : Obligations.WideTagNeverMatches := by
  intro tag base bufSize s htag
  cases hscan : otpScan s tag recordCount Config.tagStart false with
  | found raw off => exact absurd hscan (otpScan_ne_found_of_wide htag s _ _ _ raw off)
  | absent => exact ⟨.enoent, .inl rfl, exec_otpGet (by rw [otpGet, hscan])⟩
  | failed => exact ⟨.eio, .inr rfl, exec_otpGet (by rw [otpGet, hscan])⟩

/-! ### The caller's buffer -/

/-- The frame laws' cases of an answer, read as a bound on a count (R230) and what -ENOENT leaves (R231). -/
theorem count_le_and_absent_keeps {r : Status × Memory} {bufSize : Nat} {m : Memory}
    (h : (∃ n, r.1 = .count n ∧ n ≤ bufSize) ∨ r.1 = .eio ∨ r.1 = .ebadf ∨ r = (.enoent, m)) :
    (∀ n, r.1 = .count n → n ≤ bufSize) ∧ (r.1 = .enoent → r.2 = m) := by
  obtain ⟨st, mem⟩ := r
  rcases h with ⟨k, rfl, hle⟩ | rfl | rfl | heq
  · exact ⟨fun n hn => by cases hn; exact hle, nofun⟩
  · exact ⟨nofun, nofun⟩
  · exact ⟨nofun, nofun⟩
  · cases heq
    exact ⟨nofun, fun _ => rfl⟩

/-- Settles O40, from what each of the two operations keeps. -/
theorem otpOperationsStayInTheBuffer : Obligations.OtpOperationsStayInTheBuffer := by
  intro tag raw offset base bufSize s hm i hi
  simp only [List.mem_cons, List.not_mem_nil, or_false] at hi
  rcases hi with rfl | rfl
  · obtain ⟨-, hread, hstatus⟩ := otpGet_frame tag base bufSize s hm
    obtain ⟨hcount, habsent⟩ := count_le_and_absent_keeps hstatus
    exact ⟨_, _, exec_otpGet rfl, hcount, habsent, hread⟩
  · obtain ⟨-, hread, hstatus⟩ := otpGetValue_frame raw offset base bufSize s hm
    obtain ⟨hcount, habsent⟩ := count_le_and_absent_keeps (hstatus.imp_right fun h => h.imp_right .inl)
    exact ⟨_, _, exec_otpGetValue rfl, hcount, habsent, hread⟩

/-! ### The arguments of OTP_GET_VALUE (R226) -/

theorem otpGetValue_of_bad_offset {offset : Nat} (h : offset % 8 ≠ 0 ∨ offset < 4096 ∨ 8192 ≤ offset)
    (raw : Vector Byte 8) (base bufSize : Nat) (s : State) :
    otpGetValue raw offset base bufSize s = (.ebadf, s.caller) := if_pos h

theorem otpGetValue_of_good_offset {offset : Nat} (halign : offset % 8 = 0) (hlow : 4096 ≤ offset)
    (hhigh : offset < 8192) (raw : Vector Byte 8) (base bufSize : Nat) (s : State) :
    otpGetValue raw offset base bufSize s =
      if recordValid raw = false then (.eio, s.caller)
      else otpCopy s base bufSize ((Config.tagEnd - offset) / Config.recSize) raw offset 0
        (Memory.zeroFill s.caller base bufSize) :=
  if_neg (show ¬ (offset % 8 ≠ 0 ∨ offset < 4096 ∨ 8192 ≤ offset) by omega)

/-- Settles O41, by the two checks in their order. -/
theorem otpGetValueChecksItsArguments : Obligations.OtpGetValueChecksItsArguments := by
  refine fun raw offset base bufSize s =>
    ⟨fun hbad => exec_otpGetValue (otpGetValue_of_bad_offset hbad raw base bufSize s),
     fun halign hlow hhigh hsize => exec_otpGetValue ?_⟩
  have hinvalid : recordValid raw = false := by
    rw [← recordSize_eq] at hsize
    rw [Bool.eq_false_iff, ne_eq, recordValid_iff]
    omega
  rw [otpGetValue_of_good_offset halign hlow hhigh, if_pos hinvalid]

/-! ### The copy of a chain -/

theorem Memory.writeBytes_append (m : Memory) (a : Nat) (xs ys : List Byte) :
    Memory.writeBytes m a (xs ++ ys) = Memory.writeBytes (Memory.writeBytes m a xs) (a + xs.length) ys := by
  induction xs generalizing m a with
  | nil => rfl
  | cons x xs ih =>
    rw [List.cons_append, Memory.writeBytes, Memory.writeBytes, ih, List.length_cons, Nat.add_right_comm, Nat.add_assoc]

theorem chainValue_cons (raw : Vector Byte 8) (rest : List (Vector Byte 8)) :
    chainValue (raw :: rest) = recordValue raw ++ chainValue rest := rfl

/-- A record's value and then as much of the rest as there is room for. -/
theorem Memory.writeBytes_take_append (m : Memory) (a : Nat) {xs : List Byte} {n : Nat} (h : xs.length ≤ n)
    (ys : List Byte) : Memory.writeBytes m a ((xs ++ ys).take n) =
      Memory.writeBytes (Memory.writeBytes m a xs) (a + xs.length) (ys.take (n - xs.length)) := by
  rw [List.take_append, List.take_of_length_le h, Memory.writeBytes_append]

/-- The copy ends with a count at the chain's last record, or at one that fills the buffer whatever follows it (R229). -/
theorem otpCopy_counted (s : State) {base bufSize fuel : Nat} {raw : Vector Byte 8} {tail : List Byte} {off total : Nat}
    (mem : Memory) (hv : recordValid raw = true) (htotal : total ≤ bufSize)
    (h : (recordCont raw = false ∧ tail = []) ∨ bufSize ≤ total + recordSize raw) :
    otpCopy s base bufSize (fuel + 1) raw off total mem =
      (.count (min (total + (recordValue raw ++ tail).length) bufSize),
       Memory.writeBytes mem (base + total) ((recordValue raw ++ tail).take (bufSize - total))) := by
  have hlen := recordValue_length hv
  have htake : (recordValue raw ++ tail).take (bufSize - total) = (recordValue raw).take (bufSize - total) := by
    rcases h with ⟨-, rfl⟩ | hfull
    · rw [List.append_nil]
    · exact List.take_append_of_le_length (by omega)
  have hcount : total + min (recordSize raw) (bufSize - total) =
      min (total + (recordValue raw ++ tail).length) bufSize := by
    rw [List.length_append, hlen]
    rcases h with ⟨-, rfl⟩ | hfull
    · simp only [List.length_nil]; omega
    · omega
  rw [otpCopy_done s base bufSize fuel raw off total mem (h.imp And.left (by omega)), hcount, htake,
    recordValue_of_valid hv, List.take_take, Nat.min_comm (recordSize raw)]

/-- The copy of a chain up to its end or to a full buffer writes the chain's value as far as the buffer reaches (R227, R229,
R230). -/
theorem otpCopy_chain {s : State} {base bufSize fuel : Nat} {raw : Vector Byte 8} {rest : List (Vector Byte 8)}
    {off total : Nat} (mem : Memory) (hfuel : off + 8 * fuel = Config.tagEnd) (hoff : off < Config.tagEnd)
    (hv : recordValid raw = true) (hchain : followsInChain s off raw rest) (htotal : total ≤ bufSize)
    (hends : recordCont (rest.getLastD raw) = false ∨ bufSize ≤ total + (chainValue (raw :: rest)).length) :
    otpCopy s base bufSize fuel raw off total mem =
      (.count (min (total + (chainValue (raw :: rest)).length) bufSize),
       Memory.writeBytes mem (base + total) ((chainValue (raw :: rest)).take (bufSize - total))) := by
  induction rest generalizing fuel raw off total mem with
  | nil =>
    obtain ⟨left, rfl, -⟩ := exists_recordsLeft_succ hfuel hoff
    rw [chainValue_cons, List.length_append, recordValue_length hv] at hends
    exact otpCopy_counted s mem hv htotal (hends.imp_left fun hc => ⟨hc, rfl⟩)
  | cons next more ih =>
    obtain ⟨left, rfl, hleft⟩ := exists_recordsLeft_succ hfuel hoff
    by_cases hfull : bufSize ≤ total + recordSize raw
    · exact otpCopy_counted s mem hv htotal (.inr hfull)
    · obtain ⟨hcont, hoff', hread, hvalid, hmore⟩ := hchain
      have hlen := recordValue_length hv
      rw [chainValue_cons, List.length_append, hlen, List.getLastD_cons, ← Nat.add_assoc] at hends
      rw [otpCopy_next s base bufSize left off total mem hv hcont (by omega) hoff' hread hvalid,
        ih _ hleft hoff' hvalid hmore (by omega) hends, chainValue_cons raw,
        Memory.writeBytes_take_append mem (base + total) (by omega), List.length_append, hlen,
        Nat.add_assoc, Nat.add_assoc, Nat.sub_add_eq]

/-- The copy of a chain that breaks off while space remains writes the value of the records before (R228, R229). -/
theorem otpCopy_brokenChain {s : State} {base bufSize fuel : Nat} {raw : Vector Byte 8} {rest : List (Vector Byte 8)}
    {off total next : Nat} (mem : Memory) (hfuel : off + 8 * fuel = Config.tagEnd) (hoff : off < Config.tagEnd)
    (hv : recordValid raw = true) (hchain : followsInChain s off raw rest)
    (hcont : recordCont (rest.getLastD raw) = true) (hspace : total + (chainValue (raw :: rest)).length < bufSize)
    (hnext : next = off + 8 * (rest.length + 1))
    (hbreak : next = Config.tagEnd ∨ otpRead s next = none ∨ ∃ x, otpRead s next = some x ∧ recordValid x = false) :
    otpCopy s base bufSize fuel raw off total mem =
      (if next = Config.tagEnd then .ebadf else .eio,
       Memory.writeBytes mem (base + total) (chainValue (raw :: rest))) := by
  induction rest generalizing fuel raw off total mem with
  | nil =>
    obtain ⟨left, rfl, hleft⟩ := exists_recordsLeft_succ hfuel hoff
    obtain rfl : next = off + 8 := hnext
    have hiff : Config.tagEnd ≤ off + 8 ↔ off + 8 = Config.tagEnd := by omega
    rw [chainValue_cons, List.length_append, recordValue_length hv] at hspace
    rw [otpCopy_broken s base bufSize left off total mem hv hcont (by omega) (hbreak.imp_left Eq.ge), chainValue_cons]
    simp only [hiff, chainValue, List.flatMap_nil, List.append_nil]
  | cons record more ih =>
    obtain ⟨left, rfl, hleft⟩ := exists_recordsLeft_succ hfuel hoff
    obtain ⟨hc, hoff', hread, hvalid, hmore⟩ := hchain
    have hlen := recordValue_length hv
    rw [chainValue_cons, List.length_append, hlen, ← Nat.add_assoc] at hspace
    rw [List.length_cons] at hnext
    rw [List.getLastD_cons] at hcont
    rw [otpCopy_next s base bufSize left off total mem hv hc (by omega) hoff' hread hvalid,
      ih _ hleft hoff' hvalid hmore hcont hspace (by omega),
      chainValue_cons raw, Memory.writeBytes_append, hlen, Nat.add_assoc]

/-! ### The value in the caller's buffer -/

/-- A buffer of `n` bytes that holds `bs`, truncated or padded with zeros, in a space that is otherwise as it was (R226,
R227). -/
def Memory.fillBuffer (m : Memory) (base n : Nat) (bs : List Byte) : Memory :=
  Memory.writeBytes (Memory.zeroFill m base n) base (bs.take n)

theorem Memory.read_fillBuffer_inside {m : Memory} (hm : Memory.wf m = true) {n i : Nat} (hi : i < n) (base : Nat)
    (bs : List Byte) : Memory.read (Memory.fillBuffer m base n bs) (base + i) = bs.getD i 0#8 := by
  rw [Memory.fillBuffer, Memory.read_writeBytes (Memory.wf_zeroFill base n hm), Memory.read_zeroFill hm,
    if_pos (show base ≤ base + i ∧ base + i < base + n by omega), List.length_take, Nat.add_sub_cancel_left]
  split_ifs with hin
  · simp [List.getD_eq_getElem?_getD, hi, Memory.unlisted]
  · rw [List.getD_eq_default]; omega

theorem Memory.read_fillBuffer_outside {m : Memory} (hm : Memory.wf m = true) {base n a : Nat}
    (ha : a < base ∨ base + n ≤ a) (bs : List Byte) :
    Memory.read (Memory.fillBuffer m base n bs) a = Memory.read m a := by
  rw [Memory.fillBuffer, Memory.read_writeBytes (Memory.wf_zeroFill base n hm), Memory.read_zeroFill hm,
    List.length_take, if_neg (by omega), if_neg (by omega)]

/-- OTP_GET_VALUE of a good offset and a valid head is the copy from there, into a buffer of zeros (R226). -/
theorem otpGetValue_eq_otpCopy {raw : Vector Byte 8} {offset : Nat} (halign : offset % 8 = 0) (hlow : 4096 ≤ offset)
    (hhigh : offset < 8192) (hv : recordValid raw = true) (base bufSize : Nat) (s : State) :
    ∃ fuel, offset + 8 * fuel = Config.tagEnd ∧ otpGetValue raw offset base bufSize s =
      otpCopy s base bufSize fuel raw offset 0 (Memory.zeroFill s.caller base bufSize) := by
  refine ⟨(Config.tagEnd - offset) / Config.recSize, ?_, ?_⟩
  · simp only [Config.tagEnd, Config.recSize]; omega
  · rw [otpGetValue_of_good_offset halign hlow hhigh, if_neg (by simp [hv])]

/-- Settles O42: the copy of the chain, into a buffer of zeros. -/
theorem otpGetValueReturnsTheChain : Obligations.OtpGetValueReturnsTheChain := by
  intro raw rest offset base bufSize s hm halign hlow hhigh hv hchain hends
  obtain ⟨fuel, hfuel, hget⟩ := otpGetValue_eq_otpCopy halign hlow hhigh hv base bufSize s
  rw [otpCopy_chain _ hfuel hhigh hv hchain (Nat.zero_le _) (by rwa [Nat.zero_add]), Nat.zero_add] at hget
  exact ⟨Memory.fillBuffer s.caller base bufSize (chainValue (raw :: rest)), exec_otpGetValue hget,
    fun _ hi => Memory.read_fillBuffer_inside hm hi base _, fun _ ha => Memory.read_fillBuffer_outside hm ha _⟩

/-- Settles O43: the copy up to the break, into a buffer of zeros. -/
theorem brokenChainKeepsTheBytesCopied : Obligations.BrokenChainKeepsTheBytesCopied := by
  intro raw rest offset base bufSize s hm halign hlow hhigh hv hchain hcont hspace next hbreak
  obtain ⟨fuel, hfuel, hget⟩ := otpGetValue_eq_otpCopy halign hlow hhigh hv base bufSize s
  rw [otpCopy_brokenChain _ hfuel hhigh hv hchain hcont (by rwa [Nat.zero_add]) rfl hbreak,
    ← List.take_of_length_le hspace.le] at hget
  exact ⟨Memory.fillBuffer s.caller base bufSize (chainValue (raw :: rest)), exec_otpGetValue hget,
    fun _ hi => Memory.read_fillBuffer_inside hm hi base _, fun _ ha => Memory.read_fillBuffer_outside hm ha _⟩

end Sys2Proof.Machine

/-! The statements of reset and hazards (spec/70_reset_and_hazards.md): what RESET sets and leaves alone (R36, R290, R291),
that a pending RESET goes before everything (R269), and that a response without a step leaves no trace (R194). -/

namespace Sys2Proof.Machine

/-! ### The instruction -/

/-- RESET's effect is `resetEngine`'s, from any state (R290). -/
theorem exec_reset (s : State) : exec .reset s = .next (resetEngine s) := rfl

/-- Settles O35: the registers are `resetEngine`'s, and AWAIT_SOF, which it leaves, takes no response. -/
theorem resetSetsEngineAndNothingElse : Obligations.ResetSetsEngineAndNothingElse := by
  intro s
  refine ⟨resetEngine s, exec_reset s, ?_⟩
  have hresponse : ∀ (k : Kind) (a : U32) (p : List Byte), p.length < 2 ^ 32 →
      exec (.dispatchResponse k a p) (resetEngine s) = .fault .responseHasNoStep := fun k a p hp => by
    obtain ⟨-, helsewhere⟩ := dispatchResponseIsSent k a p (resetEngine s) hp
    exact helsewhere (by simp)
  simpa [sameSurroundings] using hresponse

/-! ### The step on a pending RESET -/

/-- The step with a RESET pending, whatever is handed in around it: the RESET, with the responses ahead of it gone (R269,
R290). -/
theorem step_of_reset {s : State} {before after : List Transaction} (hp : s.params.wf = true)
    (hin : s.inbox = before ++ encode .reset :: after) (hb : encode .reset ∉ before) :
    step s = .next (resetEngine { s with inbox := before.filter (fun u => !isResponse u) ++ after }) :=
  step_of_run (fetch_of_decode_ok hp (hin ▸ pick_reset s.fsm before after hb) (decode_reset s.params))

/-! ### The step on a response without one -/

/-- A response without a step makes no difference to what is picked, with a RESET behind it or without (log entry 13). -/
theorem pick_cons_of_hasNoStep {fsm : Fsm} {u : Transaction} (h : hasNoStep fsm u = true) (rest : List Transaction) :
    pick fsm (u :: rest) = pick fsm rest := by
  have hreset : isReset u = false := not_isReset_of_hasNoStep h
  obtain ⟨hresponse, -⟩ := Bool.and_eq_true_iff.mp h
  simp [pick, hreset, hresponse, h]

/-- What is fetched depends on the inbox only through what is picked from it. -/
theorem fetch_with_inbox {s : State} {inbox : List Transaction} (h : pick s.fsm s.inbox = pick s.fsm inbox) :
    fetch s = fetch { s with inbox := inbox } := by
  simp [fetch, h]

/-- When the engine has a step alone, and which: the inbox has no part in it. -/
theorem engineAlone_eq_next_iff (s t : State) :
    engineAlone s = .next t ↔ (takesByte s = true ∧ s.rx ≠ []) ∧ engineTake { s with inbox := [] } = t := by
  unfold engineAlone
  split_ifs with htakes <;> simp [htakes]

/-- Inboxes from which the same is picked have the same steps; only the name under which nothing has a step may differ. -/
theorem step_eq_next_iff_of_pick_eq {s : State} {inbox : List Transaction}
    (h : pick s.fsm s.inbox = pick s.fsm inbox) (t : State) :
    step s = .next t ↔ step { s with inbox := inbox } = .next t := by
  have hfetch := fetch_with_inbox h
  rw [step, step, ← hfetch]
  cases fetch s with
  | alone => exact (engineAlone_eq_next_iff s t).trans (engineAlone_eq_next_iff { s with inbox := inbox } t).symm
  | run i s' => exact Iff.rfl
  | wire bs s' => exact Iff.rfl
  | refused r => exact Iff.rfl

/-- A response has no step outside DISPATCH_WAIT, whatever its operands (R194; log entry 24). -/
theorem hasNoStep_response {fsm : Fsm} (h : fsm ≠ .dispatchWait) (k : Kind) (a : U32) (p : List Byte) :
    hasNoStep fsm (encode (.dispatchResponse k a p)) = true := by
  simp [hasNoStep, h]

/-- Settles O60: the step on a pending RESET is the RESET, and a response without a step is passed over by `pick`. -/
theorem resetTakesPriorityOverEverything : Obligations.ResetTakesPriorityOverEverything := by
  refine ⟨fun s before after hp hin hb => ⟨_, step_of_reset hp hin hb, ?_⟩, isResponse_response, ?_⟩
  · simp
  · intro s k a p rest hwait hin
    exact step_eq_next_iff_of_pick_eq (hin ▸ pick_cons_of_hasNoStep (hasNoStep_response hwait k a p) rest)

end Sys2Proof.Machine
